-- ==== Sys2Proof/Word.lean ====
section
/-! DEFINITION. The words, bytes, levels and bit orders of the SoftSpiEngine (spec 00_scope R9, R10; 30_encoding R76). -/

namespace Sys2Proof

/-- A word of the command and response ports (R9: 32 bits). -/
abbrev Word := BitVec 32

/-- The data unit of a transfer (R9: 8 bits). -/
abbrev Byte := BitVec 8

/-- A pin identifier: a 32-bit two's-complement integer that goes to the GPIO port unchanged (R9, R74). -/
abbrev PinId := BitVec 32

/-- One message of the command or response port: whole 32-bit words, word 0 first (R70, R80). -/
abbrev Message := List Word

/-- The level of a line (R9, R12). -/
inductive Level
  | low
  | high
  deriving DecidableEq, Repr

/-- `not lv`, the other level (R13). -/
def Level.flip : Level → Level
  | .low => .high
  | .high => .low

/-- LOW = 0, HIGH = 1 (R76). -/
def Level.ofBit : Bool → Level
  | false => .low
  | true => .high

/-- LOW = 0, HIGH = 1 (R76). -/
def Level.toBit : Level → Bool
  | .low => false
  | .high => true

/-- The order in which the bits of a byte are driven and sampled (R14, R29). -/
inductive BitOrder
  | msb
  | lsb
  deriving DecidableEq, Repr

/-- MSB = 0, LSB = 1 (R76). -/
def BitOrder.ofBit : Bool → BitOrder
  | false => .msb
  | true => .lsb

/-- MSB = 0, LSB = 1 (R76). -/
def BitOrder.toBit : BitOrder → Bool
  | .msb => false
  | .lsb => true

end Sys2Proof
end

