-- ==== Sys2Proof/Syntax.lean ====
section
/-! DEFINITION. The eight commands of the SoftSpiEngine command set, one constructor per row of spec/opcode_table.json
(spec 30_encoding R72, R73; operands by R100, R102, R105, R130, R132, R150, R162, R163). -/

namespace Sys2Proof

/-- A command with its operands. A pin operand is `none` when its present bit is 0: the pin word is then ignored,
whatever its value (R73). The byte count N of XFER and WRITE is the length of the payload (R75). -/
inductive Instr
  /-- CFG (R100): clock, MISO, MOSI and client-select pin, select active level, bit order, mode word. -/
  | cfg (clk miso mosi cs : Option PinId) (csact : Level) (ord : BitOrder) (mode : Word)
  /-- SETMODE (R102): the mode word. -/
  | setMode (mode : Word)
  /-- SETORDER (R105): the bit order. -/
  | setOrder (ord : BitOrder)
  /-- OPEN (R130). -/
  | openPins
  /-- CLOSE (R132). -/
  | closePins
  /-- XFER (R150): read enable, write enable, payload. -/
  | xfer (rd wr : Bool) (data : List Byte)
  /-- READ (R162): the byte count. -/
  | read (count : Word)
  /-- WRITE (R163): the payload. -/
  | write (data : List Byte)
  deriving DecidableEq, Repr

end Sys2Proof
end

