-- ==== Sys2Proof/WellFormed.lean ====
section
/-! DEFINITION. Which command terms the encoding can carry (spec 00_scope R9: transfer length 0..2^32-1; 30_encoding R74). -/

namespace Sys2Proof

/-- A payload whose length fits the unsigned 32-bit N word (R9, R74). -/
def payloadFits (data : List Byte) : Bool := decide (data.length < 2 ^ 32)

/-- A command term that some message encodes: the payload of XFER and WRITE fits the N word. Every other operand is
legal by its type; a bad clock pin or mode is well-formed and is answered by ConfigurationError (R100, R102). -/
def wellFormed : Instr → Bool
  | .cfg _ _ _ _ _ _ _ => true
  | .setMode _ => true
  | .setOrder _ => true
  | .openPins => true
  | .closePins => true
  | .xfer _ _ data => payloadFits data
  | .read _ => true
  | .write data => payloadFits data

/-- The well-formedness check as a proposition. -/
abbrev WellFormed (i : Instr) : Prop := wellFormed i = true

end Sys2Proof
end

