-- ==== Sys2Proof/Decode.lean ====
section
/-! DEFINITION. Decoding a command message, encoding a command, and the byte packing both use
(spec 20_memory R58; 30_encoding R70 to R79). Total on every message; a message that does not decode is rejected by name. -/

namespace Sys2Proof

/-! ### Byte packing (R58) -/

/-- Four bytes in one word, the first at bits 7..0 (R58). -/
def packWord (b0 b1 b2 b3 : Byte) : Word := b3 ++ b2 ++ b1 ++ b0

/-- A byte sequence packed little-endian into ceil(n/4) words, missing bytes of the last word 0x00 (R58, R80). -/
def packBytes : List Byte → Message
  | [] => []
  | [b0] => [packWord b0 0 0 0]
  | [b0, b1] => [packWord b0 b1 0 0]
  | [b0, b1, b2] => [packWord b0 b1 b2 0]
  | b0 :: b1 :: b2 :: b3 :: rest => packWord b0 b1 b2 b3 :: packBytes rest

/-- The four bytes of one word, byte 0 from bits 7..0 (R58). -/
def wordBytes (w : Word) : List Byte :=
  [w.extractLsb' 0 8, w.extractLsb' 8 8, w.extractLsb' 16 8, w.extractLsb' 24 8]

/-- All bytes of a list of words, in order (R58). -/
def unpackWords : Message → List Byte
  | [] => []
  | w :: rest => wordBytes w ++ unpackWords rest

/-- ceil(n/4) in unbounded integers (R72, R77). -/
def payloadWords (n : Nat) : Nat := (n + 3) / 4

/-! ### The command word (R71, R72) -/

/-- The opcodes that are assigned (R72). -/
inductive Opcode
  | cfg
  | setMode
  | setOrder
  | openPins
  | closePins
  | xfer
  | read
  | write
  deriving DecidableEq, Repr

/-- OP, bits 3..0 of the command word (R71, R72). -/
def Opcode.code : Opcode → Word
  | .cfg => 0x1
  | .setMode => 0x2
  | .setOrder => 0x3
  | .openPins => 0x4
  | .closePins => 0x5
  | .xfer => 0x6
  | .read => 0x7
  | .write => 0x8

/-- The opcode a command word names; none for the reserved values 0x0 and 0x9..0xF (R72, R78). -/
def Opcode.ofWord (w0 : Word) : Option Opcode :=
  match (w0.extractLsb' 0 4).toNat with
  | 1 => some .cfg
  | 2 => some .setMode
  | 3 => some .setOrder
  | 4 => some .openPins
  | 5 => some .closePins
  | 6 => some .xfer
  | 7 => some .read
  | 8 => some .write
  | _ => none

/-- ALLOWED(op): the command-word bits that may be 1 (R72). -/
def Opcode.allowed : Opcode → Word
  | .cfg => 0x00003F0F
  | .setMode => 0x0000000F
  | .setOrder => 0x0000200F
  | .openPins => 0x0000000F
  | .closePins => 0x0000000F
  | .xfer => 0x0000003F
  | .read => 0x0000000F
  | .write => 0x0000000F

/-- The message length of an opcode, given the word after the command word where there is one (R72, R77). -/
def Opcode.messageLength (op : Opcode) (w1 : Word) : Nat :=
  match op with
  | .cfg => 6
  | .setMode => 2
  | .setOrder => 1
  | .openPins => 1
  | .closePins => 1
  | .xfer => 2 + payloadWords w1.toNat
  | .read => 2
  | .write => 2 + payloadWords w1.toNat

/-! ### Decoding (R77) -/

/-- Why a message does not decode; every one of them is answered Refused(ENCODING) (R77, R78). -/
inductive DecodeError
  /-- No command word. -/
  | emptyMessage
  /-- Opcode 0x0 or 0x9..0xF. -/
  | reservedOpcode
  /-- A 1 in a command-word bit outside ALLOWED(op). -/
  | reservedBit
  /-- The message is shorter or longer than its opcode and N say. -/
  | wrongLength
  deriving DecidableEq, Repr

/-- A pin operand: the word where its present bit is 1, absent where it is 0 (R73, R74). -/
def pinOperand (present : Bool) (w : Word) : Option PinId := if present then some w else none

/-- The payload bytes data[0..N-1]; the padding bytes of the last word are ignored (R75). -/
def payloadOperand (n : Word) (payload : Message) : List Byte := (unpackWords payload).take n.toNat

/-- The operands of an opcode whose command word has no bit outside ALLOWED(op): the length check of R77, then the
fields of R71 to R75. -/
def decodeOperands (op : Opcode) (w0 : Word) (ops : Message) : Except DecodeError Instr :=
  match op with
  | .cfg =>
    match ops with
    | [clk, miso, mosi, cs, mode] =>
      .ok (.cfg (pinOperand (w0.getLsbD 8) clk) (pinOperand (w0.getLsbD 9) miso) (pinOperand (w0.getLsbD 10) mosi)
        (pinOperand (w0.getLsbD 11) cs) (Level.ofBit (w0.getLsbD 12)) (BitOrder.ofBit (w0.getLsbD 13)) mode)
    | _ => .error .wrongLength
  | .setMode =>
    match ops with
    | [mode] => .ok (.setMode mode)
    | _ => .error .wrongLength
  | .setOrder =>
    match ops with
    | [] => .ok (.setOrder (BitOrder.ofBit (w0.getLsbD 13)))
    | _ => .error .wrongLength
  | .openPins =>
    match ops with
    | [] => .ok .openPins
    | _ => .error .wrongLength
  | .closePins =>
    match ops with
    | [] => .ok .closePins
    | _ => .error .wrongLength
  | .xfer =>
    match ops with
    | n :: payload =>
      if payload.length = payloadWords n.toNat then
        .ok (.xfer (w0.getLsbD 4) (w0.getLsbD 5) (payloadOperand n payload))
      else .error .wrongLength
    | [] => .error .wrongLength
  | .read =>
    match ops with
    | [count] => .ok (.read count)
    | _ => .error .wrongLength
  | .write =>
    match ops with
    | n :: payload =>
      if payload.length = payloadWords n.toNat then .ok (.write (payloadOperand n payload))
      else .error .wrongLength
    | [] => .error .wrongLength

/-- Decode(msg), before any state check and before any effect (R77). -/
def decode : Message → Except DecodeError Instr
  | [] => .error .emptyMessage
  | w0 :: ops =>
    match Opcode.ofWord w0 with
    | none => .error .reservedOpcode
    | some op => if w0 &&& ~~~op.allowed = 0 then decodeOperands op w0 ops else .error .reservedBit

/-! ### Encoding (R71 to R75) -/

/-- The opcode of a command (R72). -/
def Instr.opcode : Instr → Opcode
  | .cfg _ _ _ _ _ _ _ => .cfg
  | .setMode _ => .setMode
  | .setOrder _ => .setOrder
  | .openPins => .openPins
  | .closePins => .closePins
  | .xfer _ _ _ => .xfer
  | .read _ => .read
  | .write _ => .write

/-- Bit `n` of a command word set to `b`. -/
def bitAt (n : Nat) (b : Bool) : Word := if b then 1 <<< n else 0

/-- The command word of a command (R71). -/
def commandWord : Instr → Word
  | .cfg clk miso mosi cs csact ord _ =>
    Opcode.cfg.code ||| bitAt 8 clk.isSome ||| bitAt 9 miso.isSome ||| bitAt 10 mosi.isSome ||| bitAt 11 cs.isSome
      ||| bitAt 12 csact.toBit ||| bitAt 13 ord.toBit
  | .setMode _ => Opcode.setMode.code
  | .setOrder ord => Opcode.setOrder.code ||| bitAt 13 ord.toBit
  | .openPins => Opcode.openPins.code
  | .closePins => Opcode.closePins.code
  | .xfer rd wr _ => Opcode.xfer.code ||| bitAt 4 rd ||| bitAt 5 wr
  | .read _ => Opcode.read.code
  | .write _ => Opcode.write.code

/-- The words after the command word (R73); an absent pin's word is 0, as the host should send it. -/
def operandWords : Instr → Message
  | .cfg clk miso mosi cs _ _ mode => [clk.getD 0, miso.getD 0, mosi.getD 0, cs.getD 0, mode]
  | .setMode mode => [mode]
  | .setOrder _ => []
  | .openPins => []
  | .closePins => []
  | .xfer _ _ data => BitVec.ofNat 32 data.length :: packBytes data
  | .read count => [count]
  | .write data => BitVec.ofNat 32 data.length :: packBytes data

/-- The message of a command (R70, R73). -/
def encode (i : Instr) : Message := commandWord i :: operandWords i

/-! ### The opcode table's numbering of an instruction's bits -/

/-- Word `j` of an instruction whose bits are `w`, bit 0 being bit 0 of word 0; only the low `nbits` bits count. -/
def tableWord (nbits w j : Nat) : Word := BitVec.ofNat 32 ((w % 2 ^ nbits) >>> (32 * j))

/-- How many words that instruction's message has: its opcode's length (R79), or the words `nbits` spans where the
opcode is reserved (log 13). -/
def tableLength (nbits w : Nat) : Nat :=
  match Opcode.ofWord (tableWord nbits w 0) with
  | some op => op.messageLength (tableWord nbits w 1)
  | none => max 1 ((nbits + 31) / 32)

/-- The message of that instruction (log 13). -/
def tableMessage (nbits w : Nat) : Message := (List.range (tableLength nbits w)).map (tableWord nbits w)

/-- The command the decoder reads from that instruction. -/
def decodeTableWord (nbits w : Nat) : Option Instr := (decode (tableMessage nbits w)).toOption

end Sys2Proof
end

