-- ==== Sys2Proof/Config.lean ====
section
/-! DEFINITION. The two open parameters of the block (spec 00_scope R9; 93_implementation_defined U1, U2). State carries
their values as an argument of the model, so that every statement about a state holds for every value (log 6). -/

namespace Sys2Proof

/-- The four lines a configuration names (R9, R132). -/
inductive Role
  | miso
  | mosi
  | clock
  | select
  deriving DecidableEq, Repr

/-- `CLOSE_ORDER`: the role CLOSE releases at each of its four release steps (R9, R132). -/
structure CloseOrder where
  first : Role
  second : Role
  third : Role
  fourth : Role
  deriving DecidableEq, Repr

/-- The four roles in the order CLOSE visits them. -/
def CloseOrder.toList (o : CloseOrder) : List Role := [o.first, o.second, o.third, o.fourth]

/-- The order names no role twice; four roles, so it is a permutation of all of them (R9). -/
abbrev CloseOrder.wf (o : CloseOrder) : Prop := o.toList.Nodup

/-- The parameters left open by the spec (R9). -/
structure Params where
  closeOrder : CloseOrder
  mode12Swap : Bool
  deriving DecidableEq, Repr

/-- `CLOSE_ORDER` is a permutation of the four roles; both values of `MODE12_SWAP` are legal (R9). -/
abbrev Params.wf (p : Params) : Prop := p.closeOrder.wf

/-- The spec's simulator defaults: (MISO, MOSI, CLOCK, CS) and false (R9). DESIGN CHOICE, log 6. -/
def Params.simulatorDefault : Params :=
  { closeOrder := { first := .miso, second := .mosi, third := .clock, fourth := .select }, mode12Swap := false }

end Sys2Proof
end

