-- ==== Sys2Proof/Machine/State.lean ====
section
/-! DEFINITION. The state of the block: every register, flag and port of spec 10_state, 20_memory, 30_encoding and
70_reset_and_hazards, and the state after reset (R41, R230). -/

namespace Sys2Proof.Machine

/-! ### The GPIO port (R12, R52 to R54) -/

/-- The five requests the engine issues on the GPIO port (R12). -/
inductive GpioRequest
  /-- `configure_output(pin, initialLevel)`. -/
  | cfgOut (p : PinId) (lv : Level)
  /-- `configure_input(pin)`. -/
  | cfgIn (p : PinId)
  /-- `release(pin)`. -/
  | release (p : PinId)
  /-- `write_level(pin, level)`. -/
  | write (p : PinId) (lv : Level)
  /-- `read_level(pin)`. -/
  | read (p : PinId)
  deriving DecidableEq, Repr

/-- What the GPIO agent does with one request: it completes it, or it fails it (R53, R54). The level is the answer of a
read; a completion of any other request carries no level, and the engine looks at none (log 2). -/
inductive GpioReply
  | done (lv : Level)
  | failed
  deriving DecidableEq, Repr

/-- How a request of the trace ended (R12, R15): done, answered (a read), or failed (log 11). -/
inductive GpioResult
  | done
  | answer (lv : Level)
  | failed
  deriving DecidableEq, Repr

/-- A GPIO event: a request with its arguments and how it ended (R15). -/
structure GpioEvent where
  req : GpioRequest
  result : GpioResult
  deriving DecidableEq, Repr

/-! ### Status codes (R200) -/

/-- Which check of CFG or SETMODE failed (R200, kind 1). -/
inductive ConfigCause
  | clockPin
  | mode
  deriving DecidableEq, Repr

/-- Which data pin is missing (R200, kind 3). -/
inductive PinDirection
  | input
  | output
  deriving DecidableEq, Repr

/-- Which GPIO primitive failed (R200, kind 4). -/
inductive GpioPrimitive
  | configureOutput
  | configureInput
  | release
  | writeLevel
  | readLevel
  deriving DecidableEq, Repr

/-- Why a command is given no meaning (R200, kind 5; R205). -/
inductive RefusedCause
  | encoding
  | state
  deriving DecidableEq, Repr

/-- The status of a response (R200). -/
inductive Status
  | ok
  | configurationError (cause : ConfigCause)
  | notInitialized
  | missingPin (direction : PinDirection)
  | gpioError (primitive : GpioPrimitive)
  | refused (cause : RefusedCause)
  deriving DecidableEq, Repr

/-! ### The sequencer (R33) -/

/-- OPEN.0 to OPEN.4 (R33, R130). -/
inductive OpenStep
  | clock
  | select
  | mosi
  | miso
  | setOpen
  deriving DecidableEq, Repr

/-- CLOSE.0 to CLOSE.4 (R33, R132). -/
inductive CloseStep
  | first
  | second
  | third
  | fourth
  | clearOpen
  deriving DecidableEq, Repr

/-- The sub-step s of XFER.BIT(k, i, s) (R33, R157). -/
inductive BitStep
  | mosi
  | clkOn
  | sampleLead
  | clkOff
  | sampleTrail
  | acc
  deriving DecidableEq, Repr

/-- SEQ, the sequencer position (R33). The byte index k and bit position i of XFER.BIT(k, i, s) are the registers K and I
(log 9). -/
inductive Seq
  | idle
  | opening (j : OpenStep)
  | closing (j : CloseStep)
  | csOn
  | bit (x : BitStep)
  | csOff
  | respond
  deriving DecidableEq, Repr

/-! ### How a step can stop -/

/-- The machine has no fault: every error of the block is a response status, after which it goes on (R200, R208), and a
request that is never completed is waited for (R53; log 3). No step raises one, so there is no constructor. -/
inductive Fault
  deriving DecidableEq, Repr

/-- Why an instruction has no meaning. -/
inductive Refusal
  /-- Raised by an arm of exec whose instruction is not modelled yet; safe. No arm raises it: all eight commands have
  their meaning. -/
  | notModelled (mnemonic : String)
  deriving DecidableEq, Repr

/-! ### The state -/

/-- Everything the block holds, its ports, and what an observer has seen. -/
structure State where
  /-- CONFIGURED, ENGSTAT[0] (R21, R35). -/
  configured : Bool
  /-- ISOPEN, ENGSTAT[1] (R31, R35). -/
  isOpen : Bool
  /-- GPIOFAULT, ENGSTAT[2] (R32, R35). -/
  gpioFault : Bool
  /-- CLKPIN, register 1 (R22). -/
  clkPin : PinId
  /-- MISOPIN, register 2 (R23). -/
  misoPin : Option PinId
  /-- MOSIPIN, register 3 (R24). -/
  mosiPin : Option PinId
  /-- CSPIN, register 4 (R25). -/
  csPin : Option PinId
  /-- CSACT, register 5 (R26). -/
  csAct : Level
  /-- MODE, register 6 (R27). -/
  mode : BitVec 2
  /-- BITORD, register 7 (R29). -/
  bitOrd : BitOrder
  /-- SEQ (R33); BUSY, ENGSTAT[3], is 1 exactly when it is not idle. -/
  seq : Seq
  /-- The command in progress with its operands and payload, none when SEQ = IDLE (R42(c), R50, R68; log 9). -/
  cmd : Option Instr
  /-- RDF, read enabled (R34). -/
  rdf : Bool
  /-- WRF, write enabled (R34). -/
  wrf : Bool
  /-- N, the number of bytes (R34). -/
  regN : Word
  /-- K, the byte index (R34). -/
  regK : Word
  /-- I, the bit position 0..7 (R34). -/
  regI : Fin 8
  /-- TXB, the byte being driven (R34). -/
  txb : Byte
  /-- RXB, the result accumulator (R34). -/
  rxb : Byte
  /-- S, the sampled level of the current bit (R34). -/
  regS : Level
  /-- RES, the result sequence (R34). -/
  res : List Byte
  /-- Messages offered on the command port and not yet accepted, oldest first (R56, R236; log 4). -/
  cmdPort : List Message
  /-- The GPIO agent's coming replies, oldest first; empty while the agent has not completed the next request (R52 to R54;
  log 2). -/
  replies : List GpioReply
  /-- A reset event waiting to be taken (R230; log 8). -/
  resetPin : Bool
  /-- How many sequencer positions one step of the model runs before the outside may act; none: until the engine is idle
  or waits (the model's own; log 1). -/
  pace : Option Nat
  /-- The responses sent, oldest first (R80, R242; log 11). -/
  responses : List Message
  /-- The trace of GPIO events, oldest first (R15, R242; log 11). -/
  trace : List GpioEvent
  /-- The sticky refusal mark: a command of this run was Refused (R205; log 7). -/
  refusedMark : Bool
  /-- The open parameters of the block (R9; log 6). -/
  params : Params
  deriving DecidableEq, Repr

/-- The block right after reset, for given parameters: Unconfigured, no fault, SEQ = IDLE (R41, R230). The registers R41
gives no value hold zero, none, LOW, MSB or the empty list (DESIGN CHOICE, log 5). Nothing is offered, answered or seen
yet. -/
def State.resetWith (params : Params) : State :=
  { configured := false, isOpen := false, gpioFault := false
    clkPin := 0, misoPin := none, mosiPin := none, csPin := none, csAct := .low, mode := 0, bitOrd := .msb
    seq := .idle, cmd := none
    rdf := false, wrf := false, regN := 0, regK := 0, regI := 0, txb := 0, rxb := 0, regS := .low, res := []
    cmdPort := [], replies := [], resetPin := false, pace := none
    responses := [], trace := [], refusedMark := false
    params := params }

/-- The block right after reset, with the spec's simulator defaults for its parameters (DESIGN CHOICE, log 6). -/
def State.reset : State := State.resetWith Params.simulatorDefault

end Sys2Proof.Machine
end

