-- ==== Sys2Proof/Machine/Flags.lean ====
section
/-! DEFINITION. The flags of ENGSTAT, the engine state they encode, and the flag writes the commands share
(spec 10_state R21, R31 to R33, R35). -/

namespace Sys2Proof.Machine

/-- BUSY, ENGSTAT[3]: 1 exactly when SEQ is not IDLE (R33). -/
def State.busy (s : State) : Bool := decide (s.seq ≠ .idle)

/-- Register 0, ENGSTAT: CONFIGURED, ISOPEN, GPIOFAULT, BUSY in bits 0..3, the rest 0 (R35). -/
def State.engstat (s : State) : Word :=
  bitAt 0 s.configured ||| bitAt 1 s.isOpen ||| bitAt 2 s.gpioFault ||| bitAt 3 s.busy

/-- The engine states (R21). -/
inductive EngineState
  | unconfigured
  | closed
  | opened
  deriving DecidableEq, Repr

/-- The engine state that CONFIGURED and ISOPEN encode; CONFIGURED = 0 with ISOPEN = 1 never occurs (R21). -/
def State.engineState (s : State) : EngineState :=
  if s.configured then (if s.isOpen then .opened else .closed) else .unconfigured

/-- ISOPEN <- 1, the engine state becomes Open (R31, R130). -/
def State.setOpen (s : State) : State := { s with isOpen := true }

/-- ISOPEN <- 0, the engine state becomes Closed (R31, R102, R105, R132). -/
def State.clearOpen (s : State) : State := { s with isOpen := false }

/-- GPIOFAULT <- 1 (R32, R206). -/
def State.setGpioFault (s : State) : State := { s with gpioFault := true }

end Sys2Proof.Machine
end

