-- ==== Sys2Proof/Machine/Operands.lean ====
section
/-! DEFINITION. Operand checks, the fields derived from MODE and BITORD, and the bit and byte selection of a transfer
(spec 10_state R22, R27 to R30, R36; 30_encoding R74; 42_transfer R157). -/

namespace Sys2Proof.Machine

/-! ### Operand checks (R74, R100, R102) -/

/-- The clock pin operand CFG accepts: given, and at least 1 as a two's-complement integer (R22, R100). -/
def clockOperand (clk : Option PinId) : Option PinId :=
  match clk with
  | none => none
  | some p => if 1 ≤ p.toInt then some p else none

/-- The mode operand as the two bits stored, where the two's-complement value is in 0..3 (R27, R74, R100, R102). -/
def modeOperand (m : Word) : Option (BitVec 2) :=
  if 0 ≤ m.toInt ∧ m.toInt ≤ 3 then some (m.setWidth 2) else none

/-! ### Fields derived from MODE (R27, R28, R37) -/

/-- CPHA: MODE[0], or MODE[1] under MODE12_SWAP, which exchanges modes 1 and 2 (R27). True is phase Second. -/
def State.cpha (s : State) : Bool := if s.params.mode12Swap then s.mode.getLsbD 1 else s.mode.getLsbD 0

/-- CPOL: MODE[1], or MODE[0] under MODE12_SWAP (R27). True is the inverted idle level. -/
def State.cpol (s : State) : Bool := if s.params.mode12Swap then s.mode.getLsbD 0 else s.mode.getLsbD 1

/-- TRIG, the level of the clock's leading edge: HIGH when CPOL = 0, LOW when CPOL = 1 (R28). -/
def State.trigLevel (s : State) : Level := if s.cpol then .low else .high

/-- IDLE, the level the clock rests at: not TRIG (R28). -/
def State.idleLevel (s : State) : Level := s.trigLevel.flip

/-! ### Fields derived from BITORD (R29, R30) -/

/-- BITMASK (R29). -/
def bitMask : BitOrder → Byte
  | .msb => 0x80
  | .lsb => 0x01

/-- writeShift(b, i) (R29); bits shifted above bit 7 are lost, and the mask discards them in any case. -/
def writeShift (ord : BitOrder) (b : Byte) (i : Fin 8) : Byte :=
  match ord with
  | .msb => b <<< i.val
  | .lsb => b >>> i.val

/-- bitLevel(b, i): the level driven for byte b at bit position i (R29). -/
def bitLevel (ord : BitOrder) (b : Byte) (i : Fin 8) : Level :=
  if writeShift ord b i &&& bitMask ord = 0 then .low else .high

/-- readShift, the direction opposite to writeShift (R30). -/
def readShift (ord : BitOrder) (b : Byte) (i : Fin 8) : Byte :=
  match ord with
  | .msb => b >>> i.val
  | .lsb => b <<< i.val

/-- readMask(i): the bit of the result byte that receives the sample of position i (R30). -/
def readMask (ord : BitOrder) (i : Fin 8) : Byte := readShift ord (bitMask ord) i

/-- Step 6 of a bit: the sample written into the result byte (R157). -/
def accumulate (ord : BitOrder) (rxb : Byte) (i : Fin 8) (sample : Level) : Byte :=
  match sample with
  | .high => rxb ||| readMask ord i
  | .low => rxb &&& ~~~readMask ord i

/-! ### The payload and the result of the command in progress -/

/-- data[k] of the command in progress; READ runs on a zero-filled placeholder (R152, R162). -/
def payloadByte (cmd : Option Instr) (k : Word) : Byte :=
  match cmd with
  | some (.xfer _ _ data) => data.getD k.toNat 0
  | some (.write data) => data.getD k.toNat 0
  | _ => 0

/-- The bytes of a finished transfer's response: RES for XFER and READ, none for WRITE (R80, R163). -/
def resultBytes (cmd : Option Instr) (res : List Byte) : List Byte :=
  match cmd with
  | some (.write _) => []
  | _ => res

end Sys2Proof.Machine
end

