-- ==== Sys2Proof/Machine/Ops.lean ====
section
/-! DEFINITION. The named operations over the ports and registers: responding, ending a command with an error (the
block's one form of exception), the GPIO request, and the reset event (spec 00_scope R12, R13; 20_memory R52; 30_encoding
R80, R81; 60_exceptions R200 to R209; 70_reset_and_hazards R230, R236). -/

namespace Sys2Proof.Machine

/-! ### Status words (R81, R200) -/

/-- KIND, bits 3..0 of the status word (R200). -/
def Status.kind : Status → Word
  | .ok => 0
  | .configurationError _ => 1
  | .notInitialized => 2
  | .missingPin _ => 3
  | .gpioError _ => 4
  | .refused _ => 5

/-- SUB, bits 7..4 of the status word (R200). -/
def Status.sub : Status → Word
  | .ok => 0
  | .configurationError .clockPin => 1
  | .configurationError .mode => 2
  | .notInitialized => 0
  | .missingPin .input => 1
  | .missingPin .output => 2
  | .gpioError .configureOutput => 1
  | .gpioError .configureInput => 2
  | .gpioError .release => 3
  | .gpioError .writeLevel => 4
  | .gpioError .readLevel => 5
  | .refused .encoding => 1
  | .refused .state => 2

/-- The status word, KIND | (SUB << 4) (R81, R200). -/
def Status.word (st : Status) : Word := st.kind ||| (st.sub <<< 4)

/-! ### The end of a command (R13, R80, R200 to R209) -/

/-- `respond(status, bytes)`: the response message goes out and SEQ <- IDLE (R13, R33, R80). -/
def State.respond (st : Status) (bytes : List Byte) (s : State) : State :=
  { s with responses := s.responses ++ [st.word :: packBytes bytes], seq := .idle, cmd := none }

/-- `raise E`: the command ends at once with the status word of E alone; every write made before stays (R13, R208). There
is no vector, no saved state and no return (R208, R209). -/
def State.raise (st : Status) (s : State) : State := s.respond st []

/-- Refused: no register write and no GPIO request, only the status and the sticky refusal mark (R205; log 7). -/
def State.refuse (cause : RefusedCause) (s : State) : State :=
  { s with refusedMark := true }.raise (.refused cause)

/-! ### GPIO requests (R12, R52, R206) -/

/-- The primitive of a request, as GpioError's SUB names it (R200, R204). -/
def GpioRequest.primitive : GpioRequest → GpioPrimitive
  | .cfgOut _ _ => .configureOutput
  | .cfgIn _ => .configureInput
  | .release _ => .release
  | .write _ _ => .writeLevel
  | .read _ => .readLevel

/-- The pin a request names (R12). -/
def GpioRequest.pin : GpioRequest → PinId
  | .cfgOut p _ => p
  | .cfgIn p => p
  | .release p => p
  | .write p _ => p
  | .read p => p

/-- How a request that got this reply stands in the trace: only a read carries an answer (R15). -/
def GpioRequest.resultOf (q : GpioRequest) (r : GpioReply) : GpioResult :=
  match r, q with
  | .failed, _ => .failed
  | .done lv, .read _ => .answer lv
  | .done _, _ => .done

/-- The level a completed request gives the engine: a read's answer, nothing otherwise (R12, R53). -/
def GpioRequest.answerOf (q : GpioRequest) (lv : Level) : Option Level :=
  match q with
  | .read _ => some lv
  | _ => none

/-- The event of a request and its reply (R15). -/
def GpioRequest.event (q : GpioRequest) (r : GpioReply) : GpioEvent := { req := q, result := q.resultOf r }

/-- A request that got its reply: the reply is used up and the event joins the trace (R52, R65). -/
def State.record (q : GpioRequest) (r : GpioReply) (rest : List GpioReply) (s : State) : State :=
  { s with replies := rest, trace := s.trace ++ [q.event r] }

/-- The handling of a failed request: GPIOFAULT <- 1 and GpioError, whatever the position (R206). -/
def State.gpioFailed (q : GpioRequest) (s : State) : State := s.setGpioFault.raise (.gpioError q.primitive)

/-! ### The command port (R56, R236) -/

/-- The message the engine accepts now, and the state with it consumed whole: none while a command runs or when nothing
is offered (R68, R236). -/
def State.fetch (s : State) : Option (Message × State) :=
  match s.seq, s.cmdPort with
  | .idle, m :: rest => some (m, { s with cmdPort := rest })
  | _, _ => none

/-- The command in progress begins at a sequencer position (R33). -/
def State.begin (i : Instr) (pos : Seq) (s : State) : State := { s with cmd := some i, seq := pos }

/-- SEQ moves to another position of the same command (R33). -/
def State.goto (pos : Seq) (s : State) : State := { s with seq := pos }

/-! ### Reset (R230) -/

/-- The reset event: every piece of the block's state takes its reset value; no GPIO request and no response. What the
outside holds stays: messages still offered, replies to come, what has been seen, the parameters, the pace (log 8). -/
def State.applyReset (s : State) : State :=
  { State.resetWith s.params with
    cmdPort := s.cmdPort, replies := s.replies, pace := s.pace, responses := s.responses, trace := s.trace }

end Sys2Proof.Machine
end

