-- ==== Sys2Proof/Machine/Configuration.lean ====
section
/-! DEFINITION. The configuration commands CFG, SETMODE and SETORDER (spec 40_configuration). None issues a GPIO request
(R103); each completes in one sequencer step (R33). -/

namespace Sys2Proof.Machine

/-- Every configuration register written in one step, ISOPEN <- 0, CONFIGURED <- 1 (R100). -/
def State.configure (clk : PinId) (miso mosi cs : Option PinId) (csact : Level) (mode : BitVec 2) (ord : BitOrder)
    (s : State) : State :=
  { s with
    clkPin := clk, misoPin := miso, mosiPin := mosi, csPin := cs, csAct := csact, mode := mode, bitOrd := ord
    isOpen := false, configured := true }

/-- CFG (R100, R101, R104): Refused(STATE) when configured, then the clock check, then the mode check, then all writes. -/
def execCfg (clk miso mosi cs : Option PinId) (csact : Level) (ord : BitOrder) (mode : Word) (s : State) :
    Host.Outcome State Fault Refusal :=
  if s.configured then .next (s.refuse .state)
  else
    match clockOperand clk with
    | none => .next (s.raise (.configurationError .clockPin))
    | some p =>
      match modeOperand mode with
      | none => .next (s.raise (.configurationError .mode))
      | some m => .next ((s.configure p miso mosi cs csact m ord).respond .ok [])

/-- SETMODE (R102): ISOPEN <- 0 first, whether or not the mode is legal; MODE is written only where it is. -/
def execSetMode (mode : Word) (s : State) : Host.Outcome State Fault Refusal :=
  if s.configured then
    match modeOperand mode with
    | none => .next (s.clearOpen.raise (.configurationError .mode))
    | some m => .next ({ s.clearOpen with mode := m }.respond .ok [])
  else .next (s.refuse .state)

/-- SETORDER (R105): ISOPEN <- 0, BITORD <- o. -/
def execSetOrder (ord : BitOrder) (s : State) : Host.Outcome State Fault Refusal :=
  if s.configured then .next ({ s.clearOpen with bitOrd := ord }.respond .ok [])
  else .next (s.refuse .state)

end Sys2Proof.Machine
end

