-- ==== Sys2Proof/Machine/Sequencer.lean ====
section
/-! DEFINITION. The sequencer: what each position of SEQ does, and running the engine until it is idle or waits for the
GPIO agent (spec 10_state R33, R34; 20_memory R52; 41_open_close R130, R132; 42_transfer R152, R157; 60_exceptions R206). -/

namespace Sys2Proof.Machine

/-- The release CLOSE issues for a role: of its pin where present; the clock pin always (R132). -/
def State.releaseRequest (s : State) (role : Role) : Option GpioRequest :=
  match role with
  | .miso => s.misoPin.map GpioRequest.release
  | .mosi => s.mosiPin.map GpioRequest.release
  | .clock => some (.release s.clkPin)
  | .select => s.csPin.map GpioRequest.release

/-- The GPIO request of the current position; none where the position issues none or its condition is false (R33, R130,
R132, R152, R157). -/
def State.request (s : State) : Option GpioRequest :=
  match s.seq with
  | .idle => none
  | .opening .clock => some (.cfgOut s.clkPin s.idleLevel)
  | .opening .select => s.csPin.map fun p => .cfgOut p s.csAct.flip
  | .opening .mosi => s.mosiPin.map fun p => .cfgOut p .low
  | .opening .miso => s.misoPin.map .cfgIn
  | .opening .setOpen => none
  | .closing .first => s.releaseRequest s.params.closeOrder.first
  | .closing .second => s.releaseRequest s.params.closeOrder.second
  | .closing .third => s.releaseRequest s.params.closeOrder.third
  | .closing .fourth => s.releaseRequest s.params.closeOrder.fourth
  | .closing .clearOpen => none
  | .csOn => s.csPin.map fun p => .write p s.csAct
  | .bit .mosi => if s.wrf then s.mosiPin.map fun p => .write p (bitLevel s.bitOrd s.txb s.regI) else none
  | .bit .clkOn => some (.write s.clkPin s.trigLevel)
  | .bit .sampleLead => if s.rdf && !s.cpha then s.misoPin.map .read else none
  | .bit .clkOff => some (.write s.clkPin s.idleLevel)
  | .bit .sampleTrail => if s.rdf && s.cpha then s.misoPin.map .read else none
  | .bit .acc => none
  | .csOff => s.csPin.map fun p => .write p s.csAct.flip
  | .respond => none

/-- The start of bit position i: I <- i, S <- LOW (R157). -/
def State.startBit (i : Fin 8) (s : State) : State := { s with regI := i, regS := .low, seq := .bit .mosi }

/-- The start of byte k: K <- k, TXB <- data[k], RXB <- 0x00, then bit position 0 (R152, R157). -/
def State.startByte (k : Word) (s : State) : State :=
  { s with regK := k, txb := payloadByte s.cmd k, rxb := 0 }.startBit 0

/-- The end of a byte: RES <- RES ++ [RXB], then the next byte or the deassert of client-select (R152). -/
def State.endByte (s : State) : State :=
  let done := { s with res := s.res ++ [s.rxb] }
  if s.regK.toNat + 1 < s.regN.toNat then done.startByte (s.regK + 1) else done.goto .csOff

/-- Step 6 of a bit and what follows it: the next bit position, or after position 7 the end of the byte (R157). -/
def State.accStep (s : State) : State :=
  let acc := { s with rxb := accumulate s.bitOrd s.rxb s.regI s.regS }
  if s.regI.val < 7 then acc.startBit (s.regI + 1) else acc.endByte

/-- S <- the answer of a sample step that issued its read; S as it was where the step issued none (R157). -/
def State.sampled (answer : Option Level) (s : State) : State := { s with regS := answer.getD s.regS }

/-- What the current position does once its request, if it has one, has completed: `answer` is a read's level (R33). -/
def State.advance (answer : Option Level) (s : State) : State :=
  match s.seq with
  | .idle => s
  | .opening .clock => s.goto (.opening .select)
  | .opening .select => s.goto (.opening .mosi)
  | .opening .mosi => s.goto (.opening .miso)
  | .opening .miso => s.goto (.opening .setOpen)
  | .opening .setOpen => s.setOpen.respond .ok []
  | .closing .first => s.goto (.closing .second)
  | .closing .second => s.goto (.closing .third)
  | .closing .third => s.goto (.closing .fourth)
  | .closing .fourth => s.goto (.closing .clearOpen)
  | .closing .clearOpen => s.clearOpen.respond .ok []
  | .csOn => if s.regN = 0 then s.goto .csOff else s.startByte 0
  | .bit .mosi => s.goto (.bit .clkOn)
  | .bit .clkOn => s.goto (.bit .sampleLead)
  | .bit .sampleLead => (s.sampled answer).goto (.bit .clkOff)
  | .bit .clkOff => s.goto (.bit .sampleTrail)
  | .bit .sampleTrail => (s.sampled answer).goto (.bit .acc)
  | .bit .acc => s.accStep
  | .csOff => s.goto .respond
  | .respond => s.respond .ok (resultBytes s.cmd s.res)

/-- One sequencer position: its request is issued and waits for the agent; a completion moves SEQ on, a failure ends the
command; a position without a request moves on at once (R33, R52, R206). With no reply there the engine stays at the
position, for ever if the agent never replies (R53; log 3). -/
def State.seqStep (s : State) : State :=
  match s.request with
  | none => s.advance none
  | some q =>
    match s.replies with
    | [] => s
    | .done lv :: rest => (s.record q (.done lv) rest).advance (q.answerOf lv)
    | .failed :: rest => (s.record q .failed rest).gpioFailed q

/-- The engine can do nothing on its own: no command runs, or the request of the position has no reply yet (R33, R53). -/
def State.waiting (s : State) : Bool := decide (s.seq = .idle) || (s.request.isSome && s.replies.isEmpty)

/-- At most `n` sequencer positions, fewer where the engine is idle or waits before. -/
def drive : Nat → State → State
  | 0, s => s
  | n + 1, s => if s.waiting then s else drive n s.seqStep

/-- Sub-steps left in the current bit, the present one included. -/
def BitStep.left : BitStep → Nat
  | .mosi => 6
  | .clkOn => 5
  | .sampleLead => 4
  | .clkOff => 3
  | .sampleTrail => 2
  | .acc => 1

/-- How many sequencer positions the command in progress still has if no request fails: 6 a bit, 48 a byte (R33). It only
bounds the recursion of `runEngine`. -/
def State.positionsLeft (s : State) : Nat :=
  match s.seq with
  | .idle => 0
  | .opening .clock => 5
  | .opening .select => 4
  | .opening .mosi => 3
  | .opening .miso => 2
  | .opening .setOpen => 1
  | .closing .first => 5
  | .closing .second => 4
  | .closing .third => 3
  | .closing .fourth => 2
  | .closing .clearOpen => 1
  | .csOn => 48 * s.regN.toNat + 3
  | .bit x => 48 * (s.regN.toNat - (s.regK.toNat + 1)) + 6 * (7 - s.regI.val) + x.left + 2
  | .csOff => 2
  | .respond => 1

/-- The engine runs until it is idle or waits for the GPIO agent, or for as many positions as the pace allows (log 1). -/
def State.runEngine (s : State) : State := drive (s.pace.getD s.positionsLeft) s

end Sys2Proof.Machine
end

