-- ==== Sys2Proof/Machine/Lifecycle.lean ====
section
/-! DEFINITION. The lifecycle commands OPEN and CLOSE (spec 41_open_close). Their requests and flag writes are the
positions OPEN.j and CLOSE.j of the sequencer. -/

namespace Sys2Proof.Machine

/-- OPEN (R130, R131): Refused(STATE) in Unconfigured; otherwise the sequence from OPEN.0, in Closed and in Open alike. -/
def execOpen (s : State) : Host.Outcome State Fault Refusal :=
  if s.configured then .next (s.begin .openPins (.opening .clock)).runEngine
  else .next (s.refuse .state)

/-- CLOSE (R132, R133): Refused(STATE) in Unconfigured; otherwise the sequence from CLOSE.0, in Open and in Closed alike. -/
def execClose (s : State) : Host.Outcome State Fault Refusal :=
  if s.configured then .next (s.begin .closePins (.closing .first)).runEngine
  else .next (s.refuse .state)

end Sys2Proof.Machine
end

