-- ==== Sys2Proof/Machine/Transfer.lean ====
section
/-! DEFINITION. The transfer commands XFER, READ and WRITE (spec 42_transfer). Their body is the positions XFER.* of the
sequencer. -/

namespace Sys2Proof.Machine

/-- XferCheck(rd, wr): the three preconditions in the listed order; the error of the first that fails (R151). -/
def State.xferCheck (rd wr : Bool) (s : State) : Option Status :=
  if !s.isOpen then some .notInitialized
  else if rd && s.misoPin.isNone then some (.missingPin .input)
  else if wr && s.mosiPin.isNone then some (.missingPin .output)
  else none

/-- The writes at the start of a transfer: RDF, WRF, N, RES <- [], SEQ XFER.CS_ON next (R150, R152). -/
def State.beginTransfer (i : Instr) (rd wr : Bool) (n : Word) (s : State) : State :=
  { s with rdf := rd, wrf := wr, regN := n, res := [] }.begin i .csOn

/-- What XFER, READ and WRITE share: Refused(STATE), XferCheck, then XferBody and the response (R150, R162, R163). -/
def State.transfer (i : Instr) (rd wr : Bool) (n : Word) (s : State) : State :=
  if s.configured then
    match s.xferCheck rd wr with
    | some st => s.raise st
    | none => (s.beginTransfer i rd wr n).runEngine
  else s.refuse .state

/-- XFER (R150): RD and WR from the command word, N the payload's length. -/
def execXfer (rd wr : Bool) (data : List Byte) (s : State) : Host.Outcome State Fault Refusal :=
  .next (s.transfer (.xfer rd wr data) rd wr (BitVec.ofNat 32 data.length))

/-- READ (R162): a transfer with RD = 1, WR = 0 of `count` placeholder bytes. -/
def execRead (count : Word) (s : State) : Host.Outcome State Fault Refusal :=
  .next (s.transfer (.read count) true false count)

/-- WRITE (R163): a transfer with RD = 0, WR = 1; its result bytes are discarded. -/
def execWrite (data : List Byte) (s : State) : Host.Outcome State Fault Refusal :=
  .next (s.transfer (.write data) false true (BitVec.ofNat 32 data.length))

end Sys2Proof.Machine
end

