-- ==== Sys2Proof/Machine/Dispatch.lean ====
section
/-! DEFINITION. One arm per constructor of Instr, each a call of its meaning. -/

namespace Sys2Proof.Machine

def exec (i : Instr) (s : State) : Host.Outcome State Fault Refusal :=
  match i with
  | .cfg clk miso mosi cs csact ord mode => Sys2Proof.Machine.execCfg clk miso mosi cs csact ord mode s
  | .setMode mode => Sys2Proof.Machine.execSetMode mode s
  | .setOrder ord => Sys2Proof.Machine.execSetOrder ord s
  | .openPins => Sys2Proof.Machine.execOpen s
  | .closePins => Sys2Proof.Machine.execClose s
  | .xfer rd wr data => Sys2Proof.Machine.execXfer rd wr data s
  | .read count => Sys2Proof.Machine.execRead count s
  | .write data => Sys2Proof.Machine.execWrite data s

end Sys2Proof.Machine
end

