-- ==== Sys2Proof/Machine/Step.lean ====
section
/-! DEFINITION. One step of the machine: the reset event, accepting a message and running its command, or going on with
the command in progress (spec 30_encoding R77; 60_exceptions R205, R217; 70_reset_and_hazards R230, R236). -/

namespace Sys2Proof.Machine

/-- One step (log 1, log 3). A pending reset is taken first (R230). In SEQ = IDLE an offered message is accepted whole and
decoded: its command runs, or it is Refused(ENCODING) (R77, R205). Otherwise the command in progress goes on as far as the
GPIO agent's replies carry it; with no command and no message the block waits (R217). -/
def step (s : State) : Host.Outcome State Fault Refusal :=
  if s.resetPin then .next s.applyReset
  else
    match s.fetch with
    | none => .next s.runEngine
    | some (m, s') =>
      match decode m with
      | .error _ => .next (s'.refuse .encoding)
      | .ok i => exec i s'

/-- `s` with the instruction whose bits are `w` offered on the command port as the next message, and the engine ready to
accept it: SEQ = IDLE and no reset pending (log 12). -/
def State.withFetchWord (s : State) (nbits w : Nat) : State :=
  { s with cmdPort := tableMessage nbits w :: s.cmdPort, seq := .idle, cmd := none, resetPin := false }

end Sys2Proof.Machine
end

