-- ==== Sys2Proof/Machine/Assembly.lean ====
section
/-! DEFINITION. The assembler's commands, their defaults and aliases (spec 30_encoding R82, R83; 40_configuration R101), as
terms: the spelling of a line as text is a tool's affair (log 18). -/

namespace Sys2Proof.Machine

/-- The keys of `cfg`; an omitted key takes the zero encoding of its field, which is the source's default (R82, R101). -/
structure CfgKeys where
  clk : Option Int := none
  miso : Option Int := none
  mosi : Option Int := none
  cs : Option Int := none
  csact : Level := .low
  mode : Int := 0
  order : BitOrder := .msb
  deriving DecidableEq, Repr

/-- One line of assembly (R82, R83). -/
inductive AsmLine
  | cfg (keys : CfgKeys)
  | setmode (mode : Int)
  | setorder (order : BitOrder)
  | openLine
  | closeLine
  | xferRw (data : List Byte)
  | xferR (data : List Byte)
  | xferW (data : List Byte)
  | xferNone (data : List Byte)
  /-- `xfer [b, ...]`, the alias of `xfer.rw` (R83). -/
  | xfer (data : List Byte)
  | read (count : Nat)
  | write (data : List Byte)
  deriving DecidableEq, Repr

/-- The command a line stands for; integers as 32-bit two's complement (R74, R82, R83). -/
def assemble : AsmLine → Instr
  | .cfg k =>
    .cfg (k.clk.map (BitVec.ofInt 32)) (k.miso.map (BitVec.ofInt 32)) (k.mosi.map (BitVec.ofInt 32))
      (k.cs.map (BitVec.ofInt 32)) k.csact k.order (BitVec.ofInt 32 k.mode)
  | .setmode m => .setMode (BitVec.ofInt 32 m)
  | .setorder o => .setOrder o
  | .openLine => .openPins
  | .closeLine => .closePins
  | .xferRw data => .xfer true true data
  | .xferR data => .xfer true false data
  | .xferW data => .xfer false true data
  | .xferNone data => .xfer false false data
  | .xfer data => .xfer true true data
  | .read count => .read (BitVec.ofNat 32 count)
  | .write data => .write data

end Sys2Proof.Machine
end

