-- ==== Sys2Proof/Machine/Requests.lean ====
section
/-! DEFINITION. The requests each command's pseudocode lists, in order, and the bytes a transfer's answers make, written
from the rules without the sequencer (spec 41_open_close R130, R132, R134; 42_transfer R152 to R157, R160, R161; 20_memory
R55). The statements hold the sequencer to these lists. -/

namespace Sys2Proof.Machine

/-! ### What the pseudocode issues -/

/-- OPEN's requests: clock, client-select, MOSI, MISO, each optional pin where present (R130). -/
def State.openRequests (s : State) : List GpioRequest :=
  [.cfgOut s.clkPin s.idleLevel] ++ s.csPin.toList.map (fun p => .cfgOut p s.csAct.flip)
    ++ s.mosiPin.toList.map (fun p => .cfgOut p .low) ++ s.misoPin.toList.map .cfgIn

/-- CLOSE's requests: the release of every present role in CLOSE_ORDER (R132). -/
def State.closeRequests (s : State) : List GpioRequest := s.params.closeOrder.toList.filterMap s.releaseRequest

/-- The pins a configuration names: clock, and each optional pin where present (R51, R134). -/
def State.presentPins (s : State) : List PinId :=
  s.clkPin :: (s.misoPin.toList ++ s.mosiPin.toList ++ s.csPin.toList)

/-- The bit index of a byte that bit position i visits: 7 - i under MSB, i under LSB (R160). -/
def bitIndex (ord : BitOrder) (i : Fin 8) : Nat :=
  match ord with
  | .msb => 7 - i.val
  | .lsb => i.val

/-- The requests of bit position i of byte b: MOSI first where enabled, the clock to TRIG, the sample there when CPHA = 0,
the clock to IDLE, the sample there when CPHA = 1 (R157 steps 1 to 5, R158, R159). -/
def State.bitRequests (s : State) (rd wr : Bool) (b : Byte) (i : Fin 8) : List GpioRequest :=
  (if wr then s.mosiPin.toList.map (fun p => .write p (Level.ofBit (b.getLsbD (bitIndex s.bitOrd i)))) else [])
    ++ [.write s.clkPin s.trigLevel]
    ++ (if rd && !s.cpha then s.misoPin.toList.map .read else [])
    ++ [.write s.clkPin s.idleLevel]
    ++ (if rd && s.cpha then s.misoPin.toList.map .read else [])

/-- The requests of one byte transfer: bit positions 0 to 7 in order (R157). -/
def State.byteRequests (s : State) (rd wr : Bool) (b : Byte) : List GpioRequest :=
  (List.finRange 8).flatMap (s.bitRequests rd wr b)

/-- The requests of a transfer: assert client-select where present, each byte in input order, deassert (R152, R164). -/
def State.transferRequests (s : State) (rd wr : Bool) (data : List Byte) : List GpioRequest :=
  s.csPin.toList.map (fun p => .write p s.csAct) ++ data.flatMap (s.byteRequests rd wr)
    ++ s.csPin.toList.map (fun p => .write p s.csAct.flip)

/-! ### Replies and events -/

/-- The agent completes every request of these replies (R53). -/
def AllDone (tape : List GpioReply) : Prop := ∀ r ∈ tape, r ≠ .failed

/-- The trace of requests with their replies, in order (R15, R65). -/
def eventsOf (qs : List GpioRequest) (tape : List GpioReply) : List GpioEvent := List.zipWith GpioRequest.event qs tape

/-- The answers of the reads among events, in order (R15). -/
def readAnswers (evs : List GpioEvent) : List Level :=
  evs.filterMap fun e => match e.result with
    | .answer lv => some lv
    | _ => none

/-! ### The bytes read (R153, R157, R160) -/

/-- The byte whose bit at the index of position i is the i-th level, LOW where there is none (R160). -/
def sampledByte (ord : BitOrder) (levels : List Level) : Byte :=
  (List.finRange 8).foldl
    (fun b i => b ||| (if (levels.getD i.val .low).toBit then (1 : Byte) <<< bitIndex ord i else 0)) 0

/-- `n` bytes, eight levels each in order; with no level at all every byte is 0x00 (R153, R157). -/
def sampledBytes (ord : BitOrder) : Nat → List Level → List Byte
  | 0, _ => []
  | n + 1, levels => sampledByte ord (levels.take 8) :: sampledBytes ord n (levels.drop 8)

/-! ### Lines as the GPIO agent holds them (R55, R161) -/

/-- The level one event leaves on pin p: a drive sets it, a release or a failed request leaves nothing known (R55; log 14). -/
def GpioEvent.lineAfter (e : GpioEvent) (p : PinId) (held : Option Level) : Option Level :=
  match e.req, e.result with
  | .cfgOut q lv, .done => if q = p then some lv else held
  | .write q lv, .done => if q = p then some lv else held
  | .release q, .done => if q = p then none else held
  | q, .failed => if q.pin = p then none else held
  | _, _ => held

/-- The level pin p shows after a trace under the holding reading, where one is known (R39, R55). -/
def lineLevel (evs : List GpioEvent) (p : PinId) : Option Level := evs.foldl (fun held e => e.lineAfter p held) none

/-- The replies of an agent that completes every request and answers each read with the level last written to pin p,
`held` before the first write: MOSI looped back to MISO (R161). -/
def loopbackTape (p : PinId) : Level → List GpioRequest → List GpioReply
  | _, [] => []
  | held, .write q lv :: rest =>
    let now := if q = p then lv else held
    .done now :: loopbackTape p now rest
  | held, _ :: rest => .done held :: loopbackTape p held rest

end Sys2Proof.Machine
end

