-- ==== Sys2Proof/Safety.lean ====
section
/-! DEFINITION. What the statements call a sound state and an unchanged configuration (spec 10_state R21, R22, R34, R42). -/

namespace Sys2Proof.Machine

/-- The registers that only a configuration command writes agree: CLKPIN, MISOPIN, MOSIPIN, CSPIN, CSACT, MODE, BITORD
(R22 to R29, R35). -/
structure SameConfig (s t : State) : Prop where
  clkPin : t.clkPin = s.clkPin
  misoPin : t.misoPin = s.misoPin
  mosiPin : t.mosiPin = s.mosiPin
  csPin : t.csPin = s.csPin
  csAct : t.csAct = s.csAct
  mode : t.mode = s.mode
  bitOrd : t.bitOrd = s.bitOrd

/-- The transfer datapath agrees: RDF, WRF, N, K, I, TXB, RXB, S, RES (R34). -/
structure SameDatapath (s t : State) : Prop where
  rdf : t.rdf = s.rdf
  wrf : t.wrf = s.wrf
  regN : t.regN = s.regN
  regK : t.regK = s.regK
  regI : t.regI = s.regI
  txb : t.txb = s.txb
  rxb : t.rxb = s.rxb
  regS : t.regS = s.regS
  res : t.res = s.res

/-- What no command touches: the messages still offered, the reset input, the pace, the parameters. -/
structure SameOutside (s t : State) : Prop where
  cmdPort : t.cmdPort = s.cmdPort
  resetPin : t.resetPin = s.resetPin
  pace : t.pace = s.pace
  params : t.params = s.params

/-- The command has ended and the engine is ready for the next one (R33, R209). -/
structure Ended (t : State) : Prop where
  seq : t.seq = .idle
  cmd : t.cmd = none

/-- RDF, WRF and N are those of the command in progress (R150, R162, R163). -/
def TransferOperands (i : Instr) (rd wr : Bool) (n : Word) : Prop :=
  match i with
  | .xfer r w data => rd = r ∧ wr = w ∧ n.toNat = data.length
  | .read count => rd = true ∧ wr = false ∧ n = count
  | .write data => rd = false ∧ wr = true ∧ n.toNat = data.length
  | _ => False

/-- What holds at every position of a transfer: the engine is Open, the data pins it uses are present, RDF, WRF and N are
the command's (R151, R166), and with RDF = 0 nothing but LOW and 0x00 was ever gathered (R153). -/
structure InTransfer (s : State) : Prop where
  isOpen : s.isOpen = true
  operands : ∃ i, s.cmd = some i ∧ TransferOperands i s.rdf s.wrf s.regN
  miso : s.rdf = true → s.misoPin.isSome = true
  mosi : s.wrf = true → s.mosiPin.isSome = true
  zeros : s.rdf = false → ∀ b ∈ s.res, b = 0

/-- What holds inside a byte: K < N, K bytes gathered, TXB is the K-th payload byte, and with RDF = 0 S is LOW and RXB 0
(R34, R152, R153, R157). -/
structure InByte (s : State) : Prop where
  index : s.regK.toNat < s.regN.toNat
  gathered : s.res.length = s.regK.toNat
  driven : s.txb = payloadByte s.cmd s.regK
  silent : s.rdf = false → s.regS = .low ∧ s.rxb = 0

/-- What each sequencer position says of the rest of the state (R33, R42(c)). -/
def SeqSound (s : State) : Prop :=
  match s.seq with
  | .idle => s.cmd = none
  | .opening _ => s.cmd = some .openPins
  | .closing _ => s.cmd = some .closePins
  | .csOn => InTransfer s ∧ s.res = []
  | .bit _ => InTransfer s ∧ InByte s
  | .csOff => InTransfer s ∧ s.res.length = s.regN.toNat
  | .respond => InTransfer s ∧ s.res.length = s.regN.toNat

/-- A sound state: R42(a), R42(b) and R42(c), with what R33, R34 and R153 say of the registers inside a command, and
parameters as R9 has them. -/
structure Sound (s : State) : Prop where
  clock : s.configured = true → 1 ≤ s.clkPin.toInt
  opened : s.isOpen = true → s.configured = true
  busy : s.seq ≠ .idle → s.configured = true
  position : SeqSound s
  parameters : s.params.wf

/-- A status word that R200 lists. -/
def listedStatusWords : List Word :=
  [0x00000000, 0x00000011, 0x00000021, 0x00000002, 0x00000013, 0x00000023, 0x00000014, 0x00000024, 0x00000034, 0x00000044,
    0x00000054, 0x00000015, 0x00000025]

/-- A response whose first word is a listed status word; words after it only where that status is OK (R80, R200). -/
def ListedResponse (m : Message) : Prop :=
  ∃ st bytes, m = st :: bytes ∧ st ∈ listedStatusWords ∧ (st ≠ 0 → bytes = [])

/-! ### The transfer commands as one shape (R150, R162, R163) -/

/-- RD and WR of a transfer command; READ is 1, 0 and WRITE is 0, 1 (R162, R163). -/
def transferEnables : Instr → Option (Bool × Bool)
  | .xfer rd wr _ => some (rd, wr)
  | .read _ => some (true, false)
  | .write _ => some (false, true)
  | _ => none

/-- The payload a transfer command runs on; READ's is zero-filled (R162). -/
def transferPayload : Instr → List Byte
  | .xfer _ _ data => data
  | .read count => List.replicate count.toNat 0
  | .write data => data
  | _ => []

/-- A configured engine on which a transfer with these enables passes XferCheck (R151, R231). -/
structure TransferReady (s : State) (rd wr : Bool) : Prop where
  configured : s.configured = true
  isOpen : s.isOpen = true
  miso : rd = true → s.misoPin.isSome = true
  mosi : wr = true → s.mosiPin.isSome = true

/-- What a transfer leaves alone, however it ends (R150, R166). -/
structure TransferKeeps (s t : State) : Prop where
  config : SameConfig s t
  outside : SameOutside s t
  configured : t.configured = s.configured
  isOpen : t.isOpen = s.isOpen

/-! ### The words of a message that a command fixes (R73 to R75) -/

/-- The word of a pin operand: the pin where it is present; any word at all where its present bit is 0 (R73). -/
def PinWord (pin : Option PinId) (w : Word) : Prop := ∀ p, pin = some p → w = p

/-- The payload words of a byte sequence: ceil(n/4) words, byte j in word j/4 at bits 8(j mod 4)+7 .. 8(j mod 4); the
padding bytes of the last word are any at all (R75). -/
def PayloadWords (data : List Byte) (payload : Message) : Prop :=
  payload.length = payloadWords data.length ∧
    ∀ j, j < data.length → some ((payload.getD (j / 4) 0).extractLsb' (8 * (j % 4)) 8) = data[j]?

/-- The operand words of a message agree with the command wherever a rule gives the word a meaning: everywhere but in the
words of absent pins and in the padding bytes (R73, R75). -/
def OperandsAgree : Instr → Message → Prop
  | .cfg clk miso mosi cs _ _ mode, ops =>
    ∃ w1 w2 w3 w4, ops = [w1, w2, w3, w4, mode] ∧ PinWord clk w1 ∧ PinWord miso w2 ∧ PinWord mosi w3 ∧ PinWord cs w4
  | .setMode mode, ops => ops = [mode]
  | .setOrder _, ops => ops = []
  | .openPins, ops => ops = []
  | .closePins, ops => ops = []
  | .xfer _ _ data, ops => ∃ n payload, ops = n :: payload ∧ n.toNat = data.length ∧ PayloadWords data payload
  | .read count, ops => ops = [count]
  | .write data, ops => ∃ n payload, ops = n :: payload ∧ n.toNat = data.length ∧ PayloadWords data payload

/-! ### The opcode table -/

/-- A row of spec/opcode_table.json: match and mask of the command word, and the message length in words, none where it is
2 + ceil(N/4). -/
structure TableRow where
  matchBits : Word
  mask : Word
  length : Option Nat
  deriving DecidableEq, Repr

/-- spec/opcode_table.json, row by row. -/
def tableRows : List TableRow :=
  [ ⟨0x00000001, 0xFFFFC0FF, some 6⟩,
    ⟨0x00000002, 0xFFFFFFFF, some 2⟩,
    ⟨0x00000003, 0xFFFFDFFF, some 1⟩,
    ⟨0x00000004, 0xFFFFFFFF, some 1⟩,
    ⟨0x00000005, 0xFFFFFFFF, some 1⟩,
    ⟨0x00000006, 0xFFFFFFCF, none⟩,
    ⟨0x00000007, 0xFFFFFFFF, some 2⟩,
    ⟨0x00000008, 0xFFFFFFFF, none⟩ ]

/-- A message whose command word matches a row of the table and whose length is that row's (R72, R77, R78). -/
def LegalMessage (m : Message) : Prop :=
  ∃ row ∈ tableRows, ∃ w0 ops, m = w0 :: ops ∧ w0 &&& row.mask = row.matchBits ∧
    m.length = row.length.getD (2 + payloadWords (ops.headD 0).toNat)

end Sys2Proof.Machine
end

