-- ==== Sys2Proof/Certificates/Slice0/Obligations.lean ====
section
/-! DEFINITION. The statements for the provers. A statement about a state holds for every value of the open parameters
(R9) and every reply tape that meets its hypotheses; `pace = none` is the schedule in which one step runs a command until
it ends or waits (log 1). -/

open Sys2Proof Sys2Proof.Machine

/-! ### Encoding and decoding -/

/-- R84: every example message is what its assembly line encodes to, and decodes to that line's command. -/
def Obligations.SpecExamplesEncodeAndDecode : Prop :=
  ∀ ex ∈ ([
    (.cfg { clk := some 11, miso := some 9, mosi := some 10, cs := some 8 },
      [0x00000F01, 0x0000000B, 0x00000009, 0x0000000A, 0x00000008, 0x00000000]),
    (.cfg { clk := some 11, mosi := some 10, cs := some 8, csact := .high, mode := 3, order := .lsb },
      [0x00003D01, 0x0000000B, 0x00000000, 0x0000000A, 0x00000008, 0x00000003]),
    (.cfg { mode := 0 }, [0x00000001, 0x00000000, 0x00000000, 0x00000000, 0x00000000, 0x00000000]),
    (.setmode 3, [0x00000002, 0x00000003]),
    (.setmode (-1), [0x00000002, 0xFFFFFFFF]),
    (.setorder .lsb, [0x00002003]),
    (.openLine, [0x00000004]),
    (.closeLine, [0x00000005]),
    (.xferRw [0xCA], [0x00000036, 0x00000001, 0x000000CA]),
    (.xferNone [0xCA], [0x00000006, 0x00000001, 0x000000CA]),
    (.xferRw [0x01, 0x02, 0x03, 0x04, 0x05], [0x00000036, 0x00000005, 0x04030201, 0x00000005]),
    (.xferRw [], [0x00000036, 0x00000000]),
    (.read 2, [0x00000007, 0x00000002]),
    (.write [0xCA, 0x53], [0x00000008, 0x00000002, 0x000053CA])] : List (AsmLine × Message)),
    encode (assemble ex.1) = ex.2 ∧ decode ex.2 = .ok (assemble ex.1)

/-- R71 to R77: decoding an encoded well-formed command gives the command back, with every operand. -/
def Obligations.DecodeOfEncodeIsTheCommand : Prop :=
  ∀ i : Instr, WellFormed i → decode (encode i) = .ok i

/-- R74, R75, R77: what the decoder answers is well-formed. -/
def Obligations.DecodedCommandsAreWellFormed : Prop :=
  ∀ (m : Message) (i : Instr), decode m = .ok i → WellFormed i

/-- R78 with the match, mask and length of spec/opcode_table.json: exactly the messages that fit a row decode. -/
def Obligations.ExactlyTheTableMessagesDecode : Prop :=
  ∀ m : Message, (∃ i, decode m = .ok i) ↔ LegalMessage m

/-- R71, R73, R75: a message decodes to a command exactly when its command word is the command's and its operand words
agree with the command wherever a rule gives them a meaning; the words of absent pins and the padding bytes of the payload
are ignored, whatever their value. -/
def Obligations.DecodingReadsExactlyTheMeaningfulWords : Prop :=
  ∀ (m : Message) (i : Instr), decode m = .ok i ↔ ∃ ops, m = commandWord i :: ops ∧ OperandsAgree i ops

/-- R58, with R80's zero padding: byte j sits in word j/4 at bits 8(j mod 4)+7 .. 8(j mod 4), in ceil(n/4) words. -/
def Obligations.BytesArePackedLittleEndian : Prop :=
  ∀ data : List Byte, (packBytes data).length = payloadWords data.length ∧
    ∀ j, j < 4 * payloadWords data.length →
      ((packBytes data).getD (j / 4) 0).extractLsb' (8 * (j % 4)) 8 = data.getD j 0

/-! ### A step of the machine -/

/-- R68, R77, R236: with SEQ = IDLE and no reset pending, a step accepts the message offered, consumes it whole, and runs
the command it decodes to. -/
def Obligations.StepRunsTheDecodedCommand : Prop :=
  ∀ (s : State) (m : Message) (rest : List Message) (i : Instr),
    s.resetPin = false → s.seq = .idle → s.cmdPort = m :: rest → decode m = .ok i →
    step s = exec i { s with cmdPort := rest }

/-- R205: a message that does not decode, a command other than CFG in Unconfigured, and CFG when configured are answered
Refused and change nothing else but the sticky refusal mark. -/
def Obligations.RefusedCommandsDoNothing : Prop :=
  (∀ (s : State) (m : Message) (rest : List Message) (e : DecodeError),
    s.resetPin = false → s.seq = .idle → s.cmd = none → s.cmdPort = m :: rest → decode m = .error e →
    step s = .next { s with cmdPort := rest, responses := s.responses ++ [[0x00000015]], refusedMark := true }) ∧
  (∀ (s : State) (i : Instr),
    s.seq = .idle → s.cmd = none → s.configured = false → i.opcode ≠ .cfg →
    exec i s = .next { s with responses := s.responses ++ [[0x00000025]], refusedMark := true }) ∧
  (∀ (s : State) (clk miso mosi cs : Option PinId) (csact : Level) (ord : BitOrder) (mode : Word),
    s.seq = .idle → s.cmd = none → s.configured = true →
    exec (.cfg clk miso mosi cs csact ord mode) s =
      .next { s with responses := s.responses ++ [[0x00000025]], refusedMark := true })

/-- R217: with no command offered the block waits and all state survives. -/
def Obligations.IdleEngineWaitsUnchanged : Prop :=
  ∀ s : State, s.resetPin = false → s.seq = .idle → s.cmdPort = [] → step s = .next s

/-- R236: while a command runs no message is accepted, whether or not the command ends in this step. -/
def Obligations.BusyEngineAcceptsNoMessage : Prop :=
  ∀ s : State, s.resetPin = false → s.seq ≠ .idle → ∃ t, step s = .next t ∧ t.cmdPort = s.cmdPort

/-- R41, for the state it gives values to, and every value of the parameters. -/
def Obligations.ResetStateIsUnconfiguredAndIdle : Prop :=
  ∀ p : Params,
    (State.resetWith p).engineState = .unconfigured ∧ (State.resetWith p).engstat = 0x00000000 ∧
    (State.resetWith p).configured = false ∧ (State.resetWith p).isOpen = false ∧
    (State.resetWith p).gpioFault = false ∧ (State.resetWith p).busy = false ∧ (State.resetWith p).seq = .idle

/-- R230: a reset event, at any sequencer position, gives the reset state's flags and SEQ, issues no request and sends no
response. What stays on the ports is the model's choice (log 8) and is not claimed here beyond trace and responses. -/
def Obligations.ResetEventAbandonsTheCommand : Prop :=
  ∀ s : State, s.resetPin = true → ∃ t, step s = .next t ∧
    t.engineState = .unconfigured ∧ t.engstat = 0x00000000 ∧ t.seq = .idle ∧ t.cmd = none ∧ t.resetPin = false ∧
    t.trace = s.trace ∧ t.responses = s.responses

/-- R200: the thirteen status words. -/
def Obligations.StatusWordsAreTheListedOnes : Prop :=
  Status.word .ok = 0x00000000 ∧
  Status.word (.configurationError .clockPin) = 0x00000011 ∧ Status.word (.configurationError .mode) = 0x00000021 ∧
  Status.word .notInitialized = 0x00000002 ∧
  Status.word (.missingPin .input) = 0x00000013 ∧ Status.word (.missingPin .output) = 0x00000023 ∧
  Status.word (.gpioError .configureOutput) = 0x00000014 ∧ Status.word (.gpioError .configureInput) = 0x00000024 ∧
  Status.word (.gpioError .release) = 0x00000034 ∧ Status.word (.gpioError .writeLevel) = 0x00000044 ∧
  Status.word (.gpioError .readLevel) = 0x00000054 ∧
  Status.word (.refused .encoding) = 0x00000015 ∧ Status.word (.refused .state) = 0x00000025

/-- R35: the bits of ENGSTAT. -/
def Obligations.EngstatHoldsTheFourFlags : Prop :=
  ∀ s : State,
    s.engstat.getLsbD 0 = s.configured ∧ s.engstat.getLsbD 1 = s.isOpen ∧ s.engstat.getLsbD 2 = s.gpioFault ∧
    s.engstat.getLsbD 3 = s.busy ∧ ∀ j, 4 ≤ j → s.engstat.getLsbD j = false

/-! ### Derived fields -/

/-- R27, R28, R37: CPOL, CPHA, TRIG and IDLE of the four modes, and modes 1 and 2 exchanged under MODE12_SWAP. -/
def Obligations.ModesGivePolarityAndPhase : Prop :=
  ∀ s : State,
    (s.mode = 0 → s.cpol = false ∧ s.cpha = false ∧ s.trigLevel = .high ∧ s.idleLevel = .low) ∧
    (s.mode = 3 → s.cpol = true ∧ s.cpha = true ∧ s.trigLevel = .low ∧ s.idleLevel = .high) ∧
    (s.mode = (if s.params.mode12Swap then 2 else 1) →
      s.cpol = false ∧ s.cpha = true ∧ s.trigLevel = .high ∧ s.idleLevel = .low) ∧
    (s.mode = (if s.params.mode12Swap then 1 else 2) →
      s.cpol = true ∧ s.cpha = false ∧ s.trigLevel = .low ∧ s.idleLevel = .high)

/-- R29, R30, R160: bit position i drives bit 7 - i (MSB) or i (LSB) of the byte, and step 6 writes the sample into that
same bit of the result and no other. -/
def Obligations.DrivenAndSampledBitAgree : Prop :=
  ∀ (ord : BitOrder) (b : Byte) (i : Fin 8) (lv : Level),
    bitLevel ord b i = Level.ofBit (b.getLsbD (bitIndex ord i)) ∧
    ∀ j, j < 8 →
      (accumulate ord b i lv).getLsbD j = if j = bitIndex ord i then lv.toBit else b.getLsbD j

/-- R157, R158: a bit passes its six positions once each, in order: MOSI, leading edge, first sample, trailing edge, second
sample, step 6; then the next bit, the next byte or the deassert of client-select. With read enabled it issues one MISO
read: at the position right after the leading edge exactly when CPHA = 0, at the position right after the trailing edge
exactly when CPHA = 1, and at no other position. -/
def Obligations.OneSamplePerBitAfterItsEdge : Prop :=
  ∀ (s : State) (a : Option Level),
    ((s.goto (.bit .mosi)).advance a).seq = .bit .clkOn ∧
    ((s.goto (.bit .clkOn)).request = some (.write s.clkPin s.trigLevel) ∧
      ((s.goto (.bit .clkOn)).advance a).seq = .bit .sampleLead) ∧
    ((s.goto (.bit .sampleLead)).advance a).seq = .bit .clkOff ∧
    ((s.goto (.bit .clkOff)).request = some (.write s.clkPin s.idleLevel) ∧
      ((s.goto (.bit .clkOff)).advance a).seq = .bit .sampleTrail) ∧
    ((s.goto (.bit .sampleTrail)).advance a).seq = .bit .acc ∧
    (∀ t, t = (s.goto (.bit .acc)).advance a →
      (s.regI.val < 7 → t.seq = .bit .mosi ∧ t.regI.val = s.regI.val + 1 ∧ t.regK = s.regK) ∧
      (s.regI.val = 7 → s.regK.toNat + 1 < s.regN.toNat →
        t.seq = .bit .mosi ∧ t.regI = 0 ∧ t.regK.toNat = s.regK.toNat + 1) ∧
      (s.regI.val = 7 → ¬ s.regK.toNat + 1 < s.regN.toNat → t.seq = .csOff)) ∧
    (∀ p, s.rdf = true → s.misoPin = some p →
      (∀ x q, (s.goto (.bit x)).request = some (.read q) ↔
        (q = p ∧ ((x = .sampleLead ∧ s.cpha = false) ∨ (x = .sampleTrail ∧ s.cpha = true)))) ∧
      (s.cpha = false → (s.goto (.bit .sampleTrail)).request = none) ∧
      (s.cpha = true → (s.goto (.bit .sampleLead)).request = none))

/-! ### Configuration commands -/

/-- R100: CFG is a message of 6 words with OP = 0x1; it refuses when configured, then checks the clock pin, then the mode,
then writes every configuration register at once; a failed CFG changes nothing. -/
def Obligations.CfgChecksThenConfigures : Prop :=
  ∀ (s : State) (clk miso mosi cs : Option PinId) (csact : Level) (ord : BitOrder) (mode : Word),
    s.seq = .idle → s.cmd = none →
    ((encode (.cfg clk miso mosi cs csact ord mode)).length = 6 ∧
      (encode (.cfg clk miso mosi cs csact ord mode)).head?.map (·.extractLsb' 0 4) = some 0x1) ∧
    (s.configured = true →
      exec (.cfg clk miso mosi cs csact ord mode) s =
        .next { s with responses := s.responses ++ [[0x00000025]], refusedMark := true }) ∧
    (s.configured = false → (∀ p, clk = some p → p.toInt < 1) →
      exec (.cfg clk miso mosi cs csact ord mode) s =
        .next { s with responses := s.responses ++ [[0x00000011]] }) ∧
    (∀ p, s.configured = false → clk = some p → 1 ≤ p.toInt → (mode.toInt < 0 ∨ 3 < mode.toInt) →
      exec (.cfg clk miso mosi cs csact ord mode) s =
        .next { s with responses := s.responses ++ [[0x00000021]] }) ∧
    (∀ p (m : BitVec 2), s.configured = false → clk = some p → 1 ≤ p.toInt → mode.toInt = m.toNat →
      exec (.cfg clk miso mosi cs csact ord mode) s =
        .next { s with
          configured := true, isOpen := false
          clkPin := p, misoPin := miso, mosiPin := mosi, csPin := cs, csAct := csact, mode := m, bitOrd := ord
          responses := s.responses ++ [[0x00000000]] })

/-- R101: a configuration with only a clock pin, at least 1, is the zero encoding of every other field and gets the
source's defaults. -/
def Obligations.CfgDefaultsAreTheSourceDefaults : Prop :=
  ∀ (s : State) (c : Int), s.configured = false → 1 ≤ c → c < 2 ^ 31 →
    encode (assemble (.cfg { clk := some c })) = [0x00000101, BitVec.ofInt 32 c, 0, 0, 0, 0] ∧
    ∃ t, exec (assemble (.cfg { clk := some c })) s = .next t ∧
      t.configured = true ∧ t.clkPin.toInt = c ∧ t.misoPin = none ∧ t.mosiPin = none ∧ t.csPin = none ∧
      t.csAct = .low ∧ t.mode = 0 ∧ t.bitOrd = .msb

/-- R102: SETMODE is the two words 0x2 and m; it clears ISOPEN whether or not the mode is legal, and writes MODE only
where it is. -/
def Obligations.SetModeClearsOpenAndChecks : Prop :=
  ∀ (s : State) (mode : Word), s.seq = .idle → s.cmd = none →
    encode (.setMode mode) = [0x00000002, mode] ∧
    (s.configured = false →
      exec (.setMode mode) s = .next { s with responses := s.responses ++ [[0x00000025]], refusedMark := true }) ∧
    (s.configured = true → (mode.toInt < 0 ∨ 3 < mode.toInt) →
      exec (.setMode mode) s = .next { s with isOpen := false, responses := s.responses ++ [[0x00000021]] }) ∧
    (∀ m : BitVec 2, s.configured = true → mode.toInt = m.toNat →
      exec (.setMode mode) s =
        .next { s with isOpen := false, mode := m, responses := s.responses ++ [[0x00000000]] })

/-- R105: SETORDER is one word with the order in bit 13; it clears ISOPEN and writes BITORD. -/
def Obligations.SetOrderClearsOpenAndWrites : Prop :=
  ∀ (s : State) (ord : BitOrder), s.seq = .idle → s.cmd = none →
    encode (.setOrder ord) = [match ord with | .msb => 0x00000003 | .lsb => 0x00002003] ∧
    (s.configured = false →
      exec (.setOrder ord) s = .next { s with responses := s.responses ++ [[0x00000025]], refusedMark := true }) ∧
    (s.configured = true →
      exec (.setOrder ord) s =
        .next { s with isOpen := false, bitOrd := ord, responses := s.responses ++ [[0x00000000]] })

/-- R232: after SETMODE (legal or not) or SETORDER on a configured engine, every transfer fails with NotInitializedError,
issues nothing and changes nothing. -/
def Obligations.SettersForceAReopen : Prop :=
  ∀ (s : State) (i j : Instr), s.configured = true → i.opcode = .setMode ∨ i.opcode = .setOrder →
    (transferEnables j).isSome = true →
    ∃ t, exec i s = .next t ∧ t.trace = s.trace ∧ t.isOpen = false ∧
      exec j t = .next { t with responses := t.responses ++ [[0x00000002]] }

/-- The frame of CFG, SETMODE and SETORDER, however they are answered (R100, R102, R103, R105): no GPIO request, no
datapath write, GPIOFAULT kept; SETMODE and SETORDER keep CONFIGURED and every register but their own. -/
def Obligations.ConfigurationCommandsFrame : Prop :=
  ∀ (s t : State) (i : Instr), exec i s = .next t →
    i.opcode = .cfg ∨ i.opcode = .setMode ∨ i.opcode = .setOrder →
    t.trace = s.trace ∧ t.replies = s.replies ∧ t.gpioFault = s.gpioFault ∧ SameDatapath s t ∧ SameOutside s t ∧
    (i.opcode ≠ .cfg →
      t.configured = s.configured ∧ t.clkPin = s.clkPin ∧ t.misoPin = s.misoPin ∧ t.mosiPin = s.mosiPin ∧
      t.csPin = s.csPin ∧ t.csAct = s.csAct) ∧
    (i.opcode = .setMode → t.bitOrd = s.bitOrd) ∧ (i.opcode = .setOrder → t.mode = s.mode)

/-! ### OPEN and CLOSE -/

/-- R130, R131: on a configured engine, Closed or Open, OPEN issues its requests in order and, when every one of them
completes, sets ISOPEN and answers OK; nothing else changes. -/
def Obligations.OpenConfiguresPinsAndOpens : Prop :=
  ∀ (s : State) (tape rest : List GpioReply), s.configured = true → s.pace = none →
    s.replies = tape ++ rest → AllDone tape → tape.length = s.openRequests.length →
    exec .openPins s =
      .next { s with
        isOpen := true, seq := .idle, cmd := none, replies := rest
        trace := s.trace ++ eventsOf s.openRequests tape, responses := s.responses ++ [[0x00000000]] }

/-- R130, R206: OPEN ends at the first request that fails, with GpioError naming its primitive; ISOPEN keeps its value,
GPIOFAULT is set, no later request is issued. -/
def Obligations.OpenStopsAtTheFailedRequest : Prop :=
  ∀ (s : State) (tape rest : List GpioReply) (q : GpioRequest), s.configured = true → s.pace = none →
    s.replies = tape ++ .failed :: rest → AllDone tape → s.openRequests[tape.length]? = some q →
    exec .openPins s =
      .next { s with
        gpioFault := true, seq := .idle, cmd := none, replies := rest
        trace := s.trace ++ eventsOf s.openRequests (tape ++ [.failed])
        responses := s.responses ++ [[Status.word (.gpioError q.primitive)]] }

/-- R132, R133: on a configured engine, Open or Closed, CLOSE releases every present pin in CLOSE_ORDER and, when every
release completes, clears ISOPEN and answers OK; nothing else changes. -/
def Obligations.CloseReleasesPinsAndCloses : Prop :=
  ∀ (s : State) (tape rest : List GpioReply), s.configured = true → s.pace = none →
    s.replies = tape ++ rest → AllDone tape → tape.length = s.closeRequests.length →
    exec .closePins s =
      .next { s with
        isOpen := false, seq := .idle, cmd := none, replies := rest
        trace := s.trace ++ eventsOf s.closeRequests tape, responses := s.responses ++ [[0x00000000]] }

/-- R132, R206: CLOSE ends at the first release that fails, with GpioError(release); ISOPEN keeps its value, GPIOFAULT is
set, no later release is issued. -/
def Obligations.CloseStopsAtTheFailedRelease : Prop :=
  ∀ (s : State) (tape rest : List GpioReply), s.configured = true → s.pace = none →
    s.replies = tape ++ .failed :: rest → AllDone tape → tape.length < s.closeRequests.length →
    exec .closePins s =
      .next { s with
        gpioFault := true, seq := .idle, cmd := none, replies := rest
        trace := s.trace ++ eventsOf s.closeRequests (tape ++ [.failed])
        responses := s.responses ++ [[0x00000034]] }

/-- R134: OPEN and CLOSE each issue 1 + [CSPIN present] + [MOSIPIN present] + [MISOPIN present] requests when none fails,
and OPEN followed by CLOSE leaves ISOPEN = 0 with every configured pin released exactly once, for every CLOSE_ORDER. -/
def Obligations.OpenThenCloseReleasesEveryPinOnce : Prop :=
  ∀ (s : State) (tape : List GpioReply), s.configured = true → s.params.wf → s.pace = none →
    s.replies = tape → AllDone tape → tape.length = 2 * s.presentPins.length →
    s.presentPins.length = 1 + s.csPin.toList.length + s.mosiPin.toList.length + s.misoPin.toList.length ∧
    ∃ t u opened released, exec .openPins s = .next t ∧ exec .closePins t = .next u ∧
      t.trace = s.trace ++ opened ∧ u.trace = t.trace ++ released ∧
      opened.length = s.presentPins.length ∧ released.length = s.presentPins.length ∧
      opened.map GpioEvent.req = s.openRequests ∧
      t.isOpen = true ∧ u.isOpen = false ∧
      (released.map GpioEvent.req).Perm (s.presentPins.map .release)

/-- The frame of OPEN and CLOSE, however they end (R130, R132): the configuration registers, CONFIGURED, the datapath and
the outside are as before; the trace only grows; the refusal mark changes only in Unconfigured. -/
def Obligations.LifecycleCommandsFrame : Prop :=
  ∀ (s t : State) (i : Instr), exec i s = .next t → i = .openPins ∨ i = .closePins →
    SameConfig s t ∧ SameDatapath s t ∧ SameOutside s t ∧ t.configured = s.configured ∧
    (∃ evs, t.trace = s.trace ++ evs) ∧ (s.configured = true → t.refusedMark = s.refusedMark)

/-! ### Transfers -/

/-- R151, R207: the preconditions of XFER, READ and WRITE in their order; a failed one changes nothing and issues
nothing. -/
def Obligations.TransferPreconditionsInOrder : Prop :=
  ∀ (s : State) (i : Instr) (rd wr : Bool), transferEnables i = some (rd, wr) →
    s.configured = true → s.seq = .idle → s.cmd = none →
    (s.isOpen = false → exec i s = .next { s with responses := s.responses ++ [[0x00000002]] }) ∧
    (s.isOpen = true → rd = true → s.misoPin = none →
      exec i s = .next { s with responses := s.responses ++ [[0x00000013]] }) ∧
    (s.isOpen = true → (rd = true → s.misoPin.isSome = true) → wr = true → s.mosiPin = none →
      exec i s = .next { s with responses := s.responses ++ [[0x00000023]] })

/-- R150, R152, R157, R164: XFER on a ready engine whose requests all complete: the trace grows by exactly the transfer's
requests in order, the response is OK with the bytes the answers make, the rest is unchanged. -/
def Obligations.XferCompletesWithTheSampledBytes : Prop :=
  ∀ (s : State) (rd wr : Bool) (data : List Byte) (tape rest : List GpioReply),
    WellFormed (.xfer rd wr data) → TransferReady s rd wr → s.pace = none →
    s.replies = tape ++ rest → AllDone tape → tape.length = (s.transferRequests rd wr data).length →
    ∃ t, exec (.xfer rd wr data) s = .next t ∧
      t.trace = s.trace ++ eventsOf (s.transferRequests rd wr data) tape ∧
      t.responses = s.responses ++
        [0x00000000 :: packBytes (sampledBytes s.bitOrd data.length
          (readAnswers (eventsOf (s.transferRequests rd wr data) tape)))] ∧
      t.replies = rest ∧ t.gpioFault = s.gpioFault ∧ t.refusedMark = s.refusedMark ∧ Ended t ∧ TransferKeeps s t

/-- R162: READ on a ready engine whose requests all complete: the requests are those of a read-only transfer of `count`
zero bytes, the response is OK with `count` sampled bytes. -/
def Obligations.ReadCompletesWithTheSampledBytes : Prop :=
  ∀ (s : State) (count : Word) (tape rest : List GpioReply),
    TransferReady s true false → s.pace = none → s.replies = tape ++ rest → AllDone tape →
    tape.length = (s.transferRequests true false (List.replicate count.toNat 0)).length →
    ∃ t, exec (.read count) s = .next t ∧
      t.trace = s.trace ++ eventsOf (s.transferRequests true false (List.replicate count.toNat 0)) tape ∧
      t.responses = s.responses ++
        [0x00000000 :: packBytes (sampledBytes s.bitOrd count.toNat
          (readAnswers (eventsOf (s.transferRequests true false (List.replicate count.toNat 0)) tape)))] ∧
      t.replies = rest ∧ t.gpioFault = s.gpioFault ∧ t.refusedMark = s.refusedMark ∧ Ended t ∧ TransferKeeps s t

/-- R163, R80: WRITE on a ready engine whose requests all complete: the requests are those of a write-only transfer, the
response is the status word alone. -/
def Obligations.WriteCompletesWithStatusOnly : Prop :=
  ∀ (s : State) (data : List Byte) (tape rest : List GpioReply),
    WellFormed (.write data) → TransferReady s false true → s.pace = none →
    s.replies = tape ++ rest → AllDone tape → tape.length = (s.transferRequests false true data).length →
    ∃ t, exec (.write data) s = .next t ∧
      t.trace = s.trace ++ eventsOf (s.transferRequests false true data) tape ∧
      t.responses = s.responses ++ [[0x00000000]] ∧
      t.replies = rest ∧ t.gpioFault = s.gpioFault ∧ t.refusedMark = s.refusedMark ∧ Ended t ∧ TransferKeeps s t

/-- R206 for XFER, READ and WRITE: the command ends at the first request that fails, with GpioError naming its primitive
and no result bytes; no later request is issued, client-select included. -/
def Obligations.TransferStopsAtTheFailedRequest : Prop :=
  ∀ (s : State) (i : Instr) (rd wr : Bool) (tape rest : List GpioReply) (q : GpioRequest),
    transferEnables i = some (rd, wr) → WellFormed i → TransferReady s rd wr → s.pace = none →
    s.replies = tape ++ .failed :: rest → AllDone tape →
    (s.transferRequests rd wr (transferPayload i))[tape.length]? = some q →
    ∃ t, exec i s = .next t ∧
      t.trace = s.trace ++ eventsOf (s.transferRequests rd wr (transferPayload i)) (tape ++ [.failed]) ∧
      t.responses = s.responses ++ [[Status.word (.gpioError q.primitive)]] ∧
      t.replies = rest ∧ t.gpioFault = true ∧ t.refusedMark = s.refusedMark ∧ Ended t ∧ TransferKeeps s t

/-- R52, R53: OPEN, CLOSE and the transfers wait at the first request the agent has not answered, having issued exactly
the requests before it and sent no response. -/
def Obligations.CommandsWaitForTheAgent : Prop :=
  ∀ (s : State) (i : Instr) (reqs : List GpioRequest) (q : GpioRequest),
    (i = .openPins ∧ s.configured = true ∧ reqs = s.openRequests) ∨
    (i = .closePins ∧ s.configured = true ∧ reqs = s.closeRequests) ∨
    (∃ rd wr, transferEnables i = some (rd, wr) ∧ WellFormed i ∧ TransferReady s rd wr ∧
      reqs = s.transferRequests rd wr (transferPayload i)) →
    s.pace = none → AllDone s.replies → reqs[s.replies.length]? = some q →
    ∃ t, exec i s = .next t ∧ t.request = some q ∧ t.replies = [] ∧ t.cmd = some i ∧
      t.trace = s.trace ++ eventsOf reqs s.replies ∧ t.responses = s.responses ∧ t.isOpen = s.isOpen ∧
      step { t with resetPin := false } = .next { t with resetPin := false }

/-- The frame of XFER, READ and WRITE, however they end (R150, R166): the configuration registers, CONFIGURED, ISOPEN and
the outside are as before; the trace only grows; the refusal mark changes only in Unconfigured. -/
def Obligations.TransferCommandsFrame : Prop :=
  ∀ (s t : State) (i : Instr), exec i s = .next t → (transferEnables i).isSome = true →
    TransferKeeps s t ∧ (∃ evs, t.trace = s.trace ++ evs) ∧ (s.configured = true → t.refusedMark = s.refusedMark)

/-- R166: XFER, READ and WRITE never change the engine state, whether they complete, fail, are refused or wait. -/
def Obligations.TransfersKeepTheEngineState : Prop :=
  ∀ (s : State) (i : Instr), (transferEnables i).isSome = true →
    ∃ t, exec i s = .next t ∧ t.engineState = s.engineState

/-- R156: the counts of requests of a bit, a byte and a transfer that completes. -/
def Obligations.TransferEventCounts : Prop :=
  ∀ (s : State) (i : Instr) (rd wr : Bool) (tape rest : List GpioReply),
    transferEnables i = some (rd, wr) → WellFormed i → TransferReady s rd wr → s.pace = none →
    s.replies = tape ++ rest → AllDone tape →
    tape.length = 2 * s.csPin.toList.length + 8 * (transferPayload i).length * (2 + wr.toNat + rd.toNat) →
    (∀ b p, (s.bitRequests rd wr b p).length = 2 + wr.toNat + rd.toNat ∧
      (s.byteRequests rd wr b).length = 8 * (2 + wr.toNat + rd.toNat)) ∧
    ∃ t, exec i s = .next t ∧ Ended t ∧ t.gpioFault = s.gpioFault ∧ t.replies = rest ∧
      t.trace.length = s.trace.length + 2 * s.csPin.toList.length
        + 8 * (transferPayload i).length * (2 + wr.toNat + rd.toNat)

/-- R155: a transfer of no bytes asserts and deasserts client-select where it is present, with nothing between, and
answers the status word alone. -/
def Obligations.EmptyTransferOnlyTogglesSelect : Prop :=
  ∀ (s : State) (i : Instr) (rd wr : Bool) (tape rest : List GpioReply),
    transferEnables i = some (rd, wr) → transferPayload i = [] → TransferReady s rd wr → s.pace = none →
    s.replies = tape ++ rest → AllDone tape → tape.length = 2 * s.csPin.toList.length →
    ∃ t, exec i s = .next t ∧
      t.trace = s.trace ++ s.csPin.toList.flatMap (fun p =>
        [⟨.write p s.csAct, .done⟩, ⟨.write p s.csAct.flip, .done⟩]) ∧
      t.responses = s.responses ++ [[0x00000000]] ∧ Ended t ∧ TransferKeeps s t

/-- R153: a transfer without read issues no read and returns N bytes 0x00, whatever it drives and whatever the agent
answers. -/
def Obligations.ReadDisabledTransferReturnsZeros : Prop :=
  ∀ (s : State) (wr : Bool) (data : List Byte) (tape rest : List GpioReply),
    WellFormed (.xfer false wr data) → TransferReady s false wr → s.pace = none →
    s.replies = tape ++ rest → AllDone tape → tape.length = (s.transferRequests false wr data).length →
    ∃ t evs, exec (.xfer false wr data) s = .next t ∧ t.trace = s.trace ++ evs ∧
      (∀ e ∈ evs, ∀ p, e.req ≠ .read p) ∧
      t.responses = s.responses ++ [0x00000000 :: packBytes (List.replicate data.length 0)]

/-- R154: without write enabled the payload's values have no effect on the trace or the response, and no request names the
MOSI pin unless another role has the same pin. -/
def Obligations.PayloadHasNoEffectWithoutWrite : Prop :=
  ∀ (s : State) (rd : Bool) (data data' : List Byte), data.length = data'.length →
    ∃ t t' evs, exec (.xfer rd false data) s = .next t ∧ exec (.xfer rd false data') s = .next t' ∧
      t.trace = s.trace ++ evs ∧ t'.trace = s.trace ++ evs ∧ t'.responses = t.responses ∧
      (∀ p, s.mosiPin = some p → p ≠ s.clkPin → s.misoPin ≠ some p → s.csPin ≠ some p →
        ∀ e ∈ evs, e.req.pin ≠ p)

/-- R83, R162, R163: READ has the events and the response of XFER with RD = 1, WR = 0 on zero bytes, and WRITE the events
of XFER with RD = 0, WR = 1 and its status, with the result discarded. -/
def Obligations.ReadAndWriteDelegateToXfer : Prop :=
  (∀ (s : State) (count : Word),
    ∃ t t', exec (.read count) s = .next t ∧
      exec (.xfer true false (List.replicate count.toNat 0)) s = .next t' ∧
      t = { t' with cmd := t.cmd }) ∧
  (∀ (s : State) (data : List Byte),
    ∃ t t', exec (.write data) s = .next t ∧ exec (.xfer false true data) s = .next t' ∧
      t = { t' with cmd := t.cmd, responses := t.responses } ∧
      t.responses.map (·.take 1) = t'.responses.map (·.take 1))

/-- R161: with MOSI looped back to MISO, a full-duplex transfer returns exactly the bytes it drove, in every mode, both bit
orders and for every length. The form with the clock on the MOSI pin is left out here; the next statement has it. -/
def Obligations.LoopbackReturnsTheBytesDriven : Prop :=
  ∀ (s : State) (p : PinId) (data : List Byte) (held : Level) (rest : List GpioReply),
    WellFormed (.xfer true true data) → TransferReady s true true → s.pace = none →
    s.mosiPin = some p → p ≠ s.clkPin →
    s.replies = loopbackTape p held (s.transferRequests true true data) ++ rest →
    ∃ t, exec (.xfer true true data) s = .next t ∧ Ended t ∧ t.gpioFault = s.gpioFault ∧ t.replies = rest ∧
      t.responses = s.responses ++ [0x00000000 :: packBytes data]

/-- The form the statement above leaves out, by R157, R158: on a clock pin that is also the MOSI pin the latest write before
a sample is the clock's own edge, so every bit of the result is that edge's level, whatever was driven. -/
def Obligations.LoopbackOnTheClockPinReturnsItsEdge : Prop :=
  ∀ (s : State) (data : List Byte) (held : Level) (rest : List GpioReply),
    WellFormed (.xfer true true data) → TransferReady s true true → s.pace = none → s.mosiPin = some s.clkPin →
    s.replies = loopbackTape s.clkPin held (s.transferRequests true true data) ++ rest →
    ∃ t, exec (.xfer true true data) s = .next t ∧ Ended t ∧ t.gpioFault = s.gpioFault ∧ t.replies = rest ∧
      t.responses = s.responses ++ [0x00000000 :: packBytes (List.replicate data.length
        (match if s.cpha then s.idleLevel else s.trigLevel with | .high => 0xFF | .low => 0x00))]

/-! ### Lines, under the holding reading of R55 -/

/-- R130, R235, R237 under R55's reading: after a completed OPEN over distinct pins the clock line shows IDLE of the mode in
force, client-select its deselect level and MOSI LOW, whatever they showed before. -/
def Obligations.OpenLeavesTheLinesAtRest : Prop :=
  ∀ (s : State) (tape rest : List GpioReply), s.configured = true → s.pace = none → s.presentPins.Nodup →
    s.replies = tape ++ rest → AllDone tape → tape.length = s.openRequests.length →
    ∃ t, exec .openPins s = .next t ∧ lineLevel t.trace s.clkPin = some s.idleLevel ∧
      (∀ p, s.csPin = some p → lineLevel t.trace p = some s.csAct.flip) ∧
      (∀ p, s.mosiPin = some p → lineLevel t.trace p = some .low)

/-- R157, R238 under R55's reading: a completed transfer of at least one byte over distinct pins leaves the clock line at
IDLE and client-select deasserted, and without write enabled leaves MOSI's level as it was. -/
def Obligations.TransferLeavesClockIdleAndMosiHeld : Prop :=
  ∀ (s : State) (i : Instr) (rd wr : Bool) (tape rest : List GpioReply),
    transferEnables i = some (rd, wr) → WellFormed i → transferPayload i ≠ [] → TransferReady s rd wr →
    s.pace = none → s.presentPins.Nodup → s.replies = tape ++ rest → AllDone tape →
    tape.length = (s.transferRequests rd wr (transferPayload i)).length →
    ∃ t, exec i s = .next t ∧ Ended t ∧ lineLevel t.trace s.clkPin = some s.idleLevel ∧
      (∀ p, s.csPin = some p → lineLevel t.trace p = some s.csAct.flip) ∧
      (wr = false → ∀ p, s.mosiPin = some p → lineLevel t.trace p = lineLevel s.trace p)

/-! ### The whole machine -/

/-- The reset state is sound for every legal value of the parameters (R41, R42). -/
def Obligations.ResetStateIsSound : Prop := ∀ p : Params, p.wf → Sound (State.resetWith p)

/-- R42: every step keeps soundness, from every sound state, whatever is offered, answered or pending. -/
def Obligations.StepKeepsSoundness : Prop := ∀ s t : State, Sound s → step s = .next t → Sound t

/-- R52, R62, R65: a step answers requests from the front of the agent's replies, one reply and one event each, in order;
GPIOFAULT rises exactly when one of those events failed (R32, R206). -/
def Obligations.EventsFollowTheReplies : Prop :=
  ∀ s : State, s.resetPin = false →
    ∃ t qs used, step s = .next t ∧ s.replies = used ++ t.replies ∧ qs.length = used.length ∧
      t.trace = s.trace ++ eventsOf qs used ∧ t.gpioFault = (s.gpioFault || decide (.failed ∈ used))

/-- R51: every request of a step names a pin of the configuration registers. -/
def Obligations.OnlyConfiguredPinsAreTouched : Prop :=
  ∀ s t : State, step s = .next t → ∃ evs, t.trace = s.trace ++ evs ∧ ∀ e ∈ evs, e.req.pin ∈ s.presentPins

/-- R31: outside a reset, ISOPEN rises only in a step that ends an OPEN with OK. -/
def Obligations.OpenFlagRisesOnlyAtTheEndOfOpen : Prop :=
  ∀ s t : State, Sound s → step s = .next t → s.isOpen = false → t.isOpen = true →
    t.responses = s.responses ++ [[0x00000000]] ∧ t.seq = .idle ∧
    (s.cmd = some .openPins ∨
      (s.seq = .idle ∧ ∃ m rest, s.cmdPort = m :: rest ∧ decode m = .ok .openPins))

/-- R22 to R26: once configured, no step but a reset changes a pin register, CSACT or CONFIGURED. -/
def Obligations.ConfigurationIsCreatedOnce : Prop :=
  ∀ s t : State, s.resetPin = false → s.configured = true → step s = .next t →
    t.configured = true ∧ t.clkPin = s.clkPin ∧ t.misoPin = s.misoPin ∧ t.mosiPin = s.mosiPin ∧
    t.csPin = s.csPin ∧ t.csAct = s.csAct

/-- R200, R207, R209: a step in which a command is accepted or in progress sends exactly one response, with a listed
status, when the command ends, and none before. -/
def Obligations.OneListedResponsePerCommand : Prop :=
  ∀ s : State, s.resetPin = false → s.seq ≠ .idle ∨ s.cmdPort ≠ [] →
    ∃ t, step s = .next t ∧
      ((t.seq ≠ .idle ∧ t.responses = s.responses) ∨
        (t.seq = .idle ∧ ∃ r, t.responses = s.responses ++ [r] ∧ ListedResponse r))

/-- R33, R52: in the schedule without a bound, a step leaves the engine idle or waiting for a reply. -/
def Obligations.StepRunsUntilIdleOrWaiting : Prop :=
  ∀ s : State, s.pace = none → s.resetPin = false →
    ∃ t, step s = .next t ∧ (t.seq = .idle ∨ (t.request.isSome = true ∧ t.replies = []))

/-- No step, a reset included, changes the parameters or the pace. That the parameters of R9 are a field of State that
stays is the model's choice (log 6), and so are the pace (log 1) and its staying across a reset (log 8). -/
def Obligations.ParametersNeverChange : Prop :=
  ∀ s : State, ∃ t, step s = .next t ∧ t.params = s.params ∧ t.pace = s.pace

/-- R52: a command that waited goes on, when its replies arrive, to what one step answers that has all the replies from the
start, so the statements about whole lists of replies hold of replies that come in pieces (the unbounded schedule is the
model's, log 1). -/
def Obligations.LaterRepliesGiveTheSameState : Prop :=
  ∀ (s t : State) (used more : List GpioReply), s.pace = none →
    step { s with replies := used } = .next t → t.seq ≠ .idle →
    step { t with replies := more } = step { s with replies := used ++ more }

/-- R33: running one sequencer position a step reaches the very state that one unbounded step reaches, so the length of a
step hides no position (the model's schedule, log 1). -/
def Obligations.OnePositionStepsReachTheSameState : Prop :=
  ∀ s : State, s.pace = none → s.resetPin = false →
    ∃ k t, step s = .next t ∧
      Sys2Proof.core.run k ({ s with pace := some 1 } : State) = .next ({ t with pace := some 1 } : State)
end

