-- ==== Sys2Proof/Laws/Codec.lean ====
section
/-! SUPPORT. Packing, the command word and the decoder's length check, one lemma per function (spec 20_memory R58;
30_encoding R71 to R79). -/

namespace Sys2Proof

/-! ### Packing -/

@[simp] theorem packBytes_nil : packBytes [] = [] := rfl

@[simp] theorem wordBytes_packWord (b0 b1 b2 b3 : Byte) : wordBytes (packWord b0 b1 b2 b3) = [b0, b1, b2, b3] := by
  simp only [wordBytes, packWord, List.cons.injEq, and_true]
  refine ⟨?_, ?_, ?_, ?_⟩ <;> ext i hi <;> simp [BitVec.getElem_extractLsb'] <;> grind

theorem packBytes_length (data : List Byte) : (packBytes data).length = payloadWords data.length := by
  fun_induction packBytes data <;> simp_all [payloadWords]
  omega

/-- The bytes of the packed words are the data, then only zero padding (R58, R80). -/
theorem unpackWords_packBytes (data : List Byte) :
    ∃ pad, unpackWords (packBytes data) = data ++ List.replicate pad 0 := by
  fun_induction packBytes data with
  | case1 => exact ⟨0, rfl⟩
  | case2 b0 => exact ⟨3, by simp [unpackWords]⟩
  | case3 b0 b1 => exact ⟨2, by simp [unpackWords]⟩
  | case4 b0 b1 b2 => exact ⟨1, by simp [unpackWords]⟩
  | case5 b0 b1 b2 b3 rest ih =>
    obtain ⟨pad, h⟩ := ih
    exact ⟨pad, by simp [unpackWords, h]⟩

theorem unpackWords_length (ws : Message) : (unpackWords ws).length = 4 * ws.length := by
  induction ws with
  | nil => rfl
  | cons w ws ih => simp [unpackWords, wordBytes, ih]; omega

/-- Byte j of unpacked words is in word j/4 at bits 8(j mod 4)+7 .. 8(j mod 4) (R58, R75). -/
theorem unpackWords_getElem? (ws : Message) (j : Nat) (h : j < 4 * ws.length) :
    (unpackWords ws)[j]? = some ((ws.getD (j / 4) 0).extractLsb' (8 * (j % 4)) 8) := by
  induction ws generalizing j with
  | nil => simp at h
  | cons w ws ih =>
    by_cases hj : j < 4
    · obtain rfl | rfl | rfl | rfl : j = 0 ∨ j = 1 ∨ j = 2 ∨ j = 3 := by omega
      all_goals rfl
    · obtain ⟨k, rfl⟩ : ∃ k, j = k + 4 := ⟨j - 4, by omega⟩
      have e1 : (k + 4) / 4 = k / 4 + 1 := by omega
      have e2 : (k + 4) % 4 = k % 4 := by omega
      have := ih k (by simp only [List.length_cons] at h; omega)
      rw [e1, e2, List.getD_cons_succ, ← this]
      rfl

/-- The N word of a payload that fits it. -/
theorem ofNat_length_toNat {data : List Byte} (h : payloadFits data = true) :
    (BitVec.ofNat 32 data.length).toNat = data.length := by
  have : data.length < 2 ^ 32 := by simpa [payloadFits] using h
  simp only [BitVec.toNat_ofNat]
  omega

/-- Encoding a payload and taking N bytes back gives the payload (R75). -/
theorem payloadOperand_packBytes {data : List Byte} (h : payloadFits data = true) :
    payloadOperand (BitVec.ofNat 32 data.length) (packBytes data) = data := by
  obtain ⟨pad, hp⟩ := unpackWords_packBytes data
  simp [payloadOperand, hp, ofNat_length_toNat h]

/-- A payload of the length the decoder accepts has at least N bytes, so exactly N are taken. -/
theorem payloadOperand_length {n : Word} {payload : Message} (h : payload.length = payloadWords n.toNat) :
    (payloadOperand n payload).length = n.toNat := by
  simp [payloadOperand, unpackWords_length, h, payloadWords]
  omega

/-! ### The command word -/

theorem bitAt_false (n : Nat) : bitAt n false = 0 := rfl

/-- An opcode's own word names it and has only allowed bits. -/
theorem ofWord_code (op : Opcode) : Opcode.ofWord op.code = some op := by cases op <;> decide

end Sys2Proof
end

