-- ==== Sys2Proof/Laws/PerInstr.lean ====
section
/-! SUPPORT. Statements made for every instruction, one lemma per constructor. -/

namespace Sys2Proof.Laws.CommandWord

/-- The command word of an instruction names its opcode and has no bit outside ALLOWED(op) (R71, R72). -/
def Statement (i : Instr) : Prop :=
  Opcode.ofWord (commandWord i) = some i.opcode ∧ commandWord i &&& ~~~i.opcode.allowed = 0

theorem cfg (clk miso mosi cs : Option PinId) (csact : Level) (ord : BitOrder) (mode : Word) :
    Statement (.cfg clk miso mosi cs csact ord mode) := by
  simp only [Statement, commandWord, Instr.opcode]
  generalize clk.isSome = a
  generalize miso.isSome = b
  generalize mosi.isSome = c
  generalize cs.isSome = d
  generalize csact.toBit = e
  generalize ord.toBit = f
  revert a b c d e f
  decide

theorem setMode (mode : Word) : Statement (.setMode mode) := by
  simp only [Statement, commandWord, Instr.opcode]; decide

theorem setOrder (ord : BitOrder) : Statement (.setOrder ord) := by
  cases ord <;> simp only [Statement, commandWord, Instr.opcode] <;> decide

theorem openPins : Statement .openPins := by simp only [Statement, commandWord, Instr.opcode]; decide

theorem closePins : Statement .closePins := by simp only [Statement, commandWord, Instr.opcode]; decide

theorem xfer (rd wr : Bool) (data : List Byte) : Statement (.xfer rd wr data) := by
  cases rd <;> cases wr <;> simp only [Statement, commandWord, Instr.opcode] <;> decide

theorem read (count : Word) : Statement (.read count) := by
  simp only [Statement, commandWord, Instr.opcode]; decide

theorem write (data : List Byte) : Statement (.write data) := by
  simp only [Statement, commandWord, Instr.opcode]; decide

end Sys2Proof.Laws.CommandWord
end

