-- ==== Sys2Proof/Laws/State.lean ====
section
/-! SUPPORT. One lemma per field per named update of State, each true by definition. -/

namespace Sys2Proof.Machine

variable (s : State)

/-! ### State.setOpen -/

@[simp] theorem State.setOpen_configured : (s.setOpen).configured = s.configured := rfl
@[simp] theorem State.setOpen_isOpen : (s.setOpen).isOpen = true := rfl
@[simp] theorem State.setOpen_gpioFault : (s.setOpen).gpioFault = s.gpioFault := rfl
@[simp] theorem State.setOpen_clkPin : (s.setOpen).clkPin = s.clkPin := rfl
@[simp] theorem State.setOpen_misoPin : (s.setOpen).misoPin = s.misoPin := rfl
@[simp] theorem State.setOpen_mosiPin : (s.setOpen).mosiPin = s.mosiPin := rfl
@[simp] theorem State.setOpen_csPin : (s.setOpen).csPin = s.csPin := rfl
@[simp] theorem State.setOpen_csAct : (s.setOpen).csAct = s.csAct := rfl
@[simp] theorem State.setOpen_mode : (s.setOpen).mode = s.mode := rfl
@[simp] theorem State.setOpen_bitOrd : (s.setOpen).bitOrd = s.bitOrd := rfl
@[simp] theorem State.setOpen_seq : (s.setOpen).seq = s.seq := rfl
@[simp] theorem State.setOpen_cmd : (s.setOpen).cmd = s.cmd := rfl
@[simp] theorem State.setOpen_rdf : (s.setOpen).rdf = s.rdf := rfl
@[simp] theorem State.setOpen_wrf : (s.setOpen).wrf = s.wrf := rfl
@[simp] theorem State.setOpen_regN : (s.setOpen).regN = s.regN := rfl
@[simp] theorem State.setOpen_regK : (s.setOpen).regK = s.regK := rfl
@[simp] theorem State.setOpen_regI : (s.setOpen).regI = s.regI := rfl
@[simp] theorem State.setOpen_txb : (s.setOpen).txb = s.txb := rfl
@[simp] theorem State.setOpen_rxb : (s.setOpen).rxb = s.rxb := rfl
@[simp] theorem State.setOpen_regS : (s.setOpen).regS = s.regS := rfl
@[simp] theorem State.setOpen_res : (s.setOpen).res = s.res := rfl
@[simp] theorem State.setOpen_cmdPort : (s.setOpen).cmdPort = s.cmdPort := rfl
@[simp] theorem State.setOpen_replies : (s.setOpen).replies = s.replies := rfl
@[simp] theorem State.setOpen_resetPin : (s.setOpen).resetPin = s.resetPin := rfl
@[simp] theorem State.setOpen_pace : (s.setOpen).pace = s.pace := rfl
@[simp] theorem State.setOpen_responses : (s.setOpen).responses = s.responses := rfl
@[simp] theorem State.setOpen_trace : (s.setOpen).trace = s.trace := rfl
@[simp] theorem State.setOpen_refusedMark : (s.setOpen).refusedMark = s.refusedMark := rfl
@[simp] theorem State.setOpen_params : (s.setOpen).params = s.params := rfl

/-! ### State.clearOpen -/

@[simp] theorem State.clearOpen_configured : (s.clearOpen).configured = s.configured := rfl
@[simp] theorem State.clearOpen_isOpen : (s.clearOpen).isOpen = false := rfl
@[simp] theorem State.clearOpen_gpioFault : (s.clearOpen).gpioFault = s.gpioFault := rfl
@[simp] theorem State.clearOpen_clkPin : (s.clearOpen).clkPin = s.clkPin := rfl
@[simp] theorem State.clearOpen_misoPin : (s.clearOpen).misoPin = s.misoPin := rfl
@[simp] theorem State.clearOpen_mosiPin : (s.clearOpen).mosiPin = s.mosiPin := rfl
@[simp] theorem State.clearOpen_csPin : (s.clearOpen).csPin = s.csPin := rfl
@[simp] theorem State.clearOpen_csAct : (s.clearOpen).csAct = s.csAct := rfl
@[simp] theorem State.clearOpen_mode : (s.clearOpen).mode = s.mode := rfl
@[simp] theorem State.clearOpen_bitOrd : (s.clearOpen).bitOrd = s.bitOrd := rfl
@[simp] theorem State.clearOpen_seq : (s.clearOpen).seq = s.seq := rfl
@[simp] theorem State.clearOpen_cmd : (s.clearOpen).cmd = s.cmd := rfl
@[simp] theorem State.clearOpen_rdf : (s.clearOpen).rdf = s.rdf := rfl
@[simp] theorem State.clearOpen_wrf : (s.clearOpen).wrf = s.wrf := rfl
@[simp] theorem State.clearOpen_regN : (s.clearOpen).regN = s.regN := rfl
@[simp] theorem State.clearOpen_regK : (s.clearOpen).regK = s.regK := rfl
@[simp] theorem State.clearOpen_regI : (s.clearOpen).regI = s.regI := rfl
@[simp] theorem State.clearOpen_txb : (s.clearOpen).txb = s.txb := rfl
@[simp] theorem State.clearOpen_rxb : (s.clearOpen).rxb = s.rxb := rfl
@[simp] theorem State.clearOpen_regS : (s.clearOpen).regS = s.regS := rfl
@[simp] theorem State.clearOpen_res : (s.clearOpen).res = s.res := rfl
@[simp] theorem State.clearOpen_cmdPort : (s.clearOpen).cmdPort = s.cmdPort := rfl
@[simp] theorem State.clearOpen_replies : (s.clearOpen).replies = s.replies := rfl
@[simp] theorem State.clearOpen_resetPin : (s.clearOpen).resetPin = s.resetPin := rfl
@[simp] theorem State.clearOpen_pace : (s.clearOpen).pace = s.pace := rfl
@[simp] theorem State.clearOpen_responses : (s.clearOpen).responses = s.responses := rfl
@[simp] theorem State.clearOpen_trace : (s.clearOpen).trace = s.trace := rfl
@[simp] theorem State.clearOpen_refusedMark : (s.clearOpen).refusedMark = s.refusedMark := rfl
@[simp] theorem State.clearOpen_params : (s.clearOpen).params = s.params := rfl

/-! ### State.setGpioFault -/

@[simp] theorem State.setGpioFault_configured : (s.setGpioFault).configured = s.configured := rfl
@[simp] theorem State.setGpioFault_isOpen : (s.setGpioFault).isOpen = s.isOpen := rfl
@[simp] theorem State.setGpioFault_gpioFault : (s.setGpioFault).gpioFault = true := rfl
@[simp] theorem State.setGpioFault_clkPin : (s.setGpioFault).clkPin = s.clkPin := rfl
@[simp] theorem State.setGpioFault_misoPin : (s.setGpioFault).misoPin = s.misoPin := rfl
@[simp] theorem State.setGpioFault_mosiPin : (s.setGpioFault).mosiPin = s.mosiPin := rfl
@[simp] theorem State.setGpioFault_csPin : (s.setGpioFault).csPin = s.csPin := rfl
@[simp] theorem State.setGpioFault_csAct : (s.setGpioFault).csAct = s.csAct := rfl
@[simp] theorem State.setGpioFault_mode : (s.setGpioFault).mode = s.mode := rfl
@[simp] theorem State.setGpioFault_bitOrd : (s.setGpioFault).bitOrd = s.bitOrd := rfl
@[simp] theorem State.setGpioFault_seq : (s.setGpioFault).seq = s.seq := rfl
@[simp] theorem State.setGpioFault_cmd : (s.setGpioFault).cmd = s.cmd := rfl
@[simp] theorem State.setGpioFault_rdf : (s.setGpioFault).rdf = s.rdf := rfl
@[simp] theorem State.setGpioFault_wrf : (s.setGpioFault).wrf = s.wrf := rfl
@[simp] theorem State.setGpioFault_regN : (s.setGpioFault).regN = s.regN := rfl
@[simp] theorem State.setGpioFault_regK : (s.setGpioFault).regK = s.regK := rfl
@[simp] theorem State.setGpioFault_regI : (s.setGpioFault).regI = s.regI := rfl
@[simp] theorem State.setGpioFault_txb : (s.setGpioFault).txb = s.txb := rfl
@[simp] theorem State.setGpioFault_rxb : (s.setGpioFault).rxb = s.rxb := rfl
@[simp] theorem State.setGpioFault_regS : (s.setGpioFault).regS = s.regS := rfl
@[simp] theorem State.setGpioFault_res : (s.setGpioFault).res = s.res := rfl
@[simp] theorem State.setGpioFault_cmdPort : (s.setGpioFault).cmdPort = s.cmdPort := rfl
@[simp] theorem State.setGpioFault_replies : (s.setGpioFault).replies = s.replies := rfl
@[simp] theorem State.setGpioFault_resetPin : (s.setGpioFault).resetPin = s.resetPin := rfl
@[simp] theorem State.setGpioFault_pace : (s.setGpioFault).pace = s.pace := rfl
@[simp] theorem State.setGpioFault_responses : (s.setGpioFault).responses = s.responses := rfl
@[simp] theorem State.setGpioFault_trace : (s.setGpioFault).trace = s.trace := rfl
@[simp] theorem State.setGpioFault_refusedMark : (s.setGpioFault).refusedMark = s.refusedMark := rfl
@[simp] theorem State.setGpioFault_params : (s.setGpioFault).params = s.params := rfl

/-! ### State.respond -/

@[simp] theorem State.respond_configured (st : Status) (bytes : List Byte) : (s.respond st bytes).configured = s.configured := rfl
@[simp] theorem State.respond_isOpen (st : Status) (bytes : List Byte) : (s.respond st bytes).isOpen = s.isOpen := rfl
@[simp] theorem State.respond_gpioFault (st : Status) (bytes : List Byte) : (s.respond st bytes).gpioFault = s.gpioFault := rfl
@[simp] theorem State.respond_clkPin (st : Status) (bytes : List Byte) : (s.respond st bytes).clkPin = s.clkPin := rfl
@[simp] theorem State.respond_misoPin (st : Status) (bytes : List Byte) : (s.respond st bytes).misoPin = s.misoPin := rfl
@[simp] theorem State.respond_mosiPin (st : Status) (bytes : List Byte) : (s.respond st bytes).mosiPin = s.mosiPin := rfl
@[simp] theorem State.respond_csPin (st : Status) (bytes : List Byte) : (s.respond st bytes).csPin = s.csPin := rfl
@[simp] theorem State.respond_csAct (st : Status) (bytes : List Byte) : (s.respond st bytes).csAct = s.csAct := rfl
@[simp] theorem State.respond_mode (st : Status) (bytes : List Byte) : (s.respond st bytes).mode = s.mode := rfl
@[simp] theorem State.respond_bitOrd (st : Status) (bytes : List Byte) : (s.respond st bytes).bitOrd = s.bitOrd := rfl
@[simp] theorem State.respond_seq (st : Status) (bytes : List Byte) : (s.respond st bytes).seq = .idle := rfl
@[simp] theorem State.respond_cmd (st : Status) (bytes : List Byte) : (s.respond st bytes).cmd = none := rfl
@[simp] theorem State.respond_rdf (st : Status) (bytes : List Byte) : (s.respond st bytes).rdf = s.rdf := rfl
@[simp] theorem State.respond_wrf (st : Status) (bytes : List Byte) : (s.respond st bytes).wrf = s.wrf := rfl
@[simp] theorem State.respond_regN (st : Status) (bytes : List Byte) : (s.respond st bytes).regN = s.regN := rfl
@[simp] theorem State.respond_regK (st : Status) (bytes : List Byte) : (s.respond st bytes).regK = s.regK := rfl
@[simp] theorem State.respond_regI (st : Status) (bytes : List Byte) : (s.respond st bytes).regI = s.regI := rfl
@[simp] theorem State.respond_txb (st : Status) (bytes : List Byte) : (s.respond st bytes).txb = s.txb := rfl
@[simp] theorem State.respond_rxb (st : Status) (bytes : List Byte) : (s.respond st bytes).rxb = s.rxb := rfl
@[simp] theorem State.respond_regS (st : Status) (bytes : List Byte) : (s.respond st bytes).regS = s.regS := rfl
@[simp] theorem State.respond_res (st : Status) (bytes : List Byte) : (s.respond st bytes).res = s.res := rfl
@[simp] theorem State.respond_cmdPort (st : Status) (bytes : List Byte) : (s.respond st bytes).cmdPort = s.cmdPort := rfl
@[simp] theorem State.respond_replies (st : Status) (bytes : List Byte) : (s.respond st bytes).replies = s.replies := rfl
@[simp] theorem State.respond_resetPin (st : Status) (bytes : List Byte) : (s.respond st bytes).resetPin = s.resetPin := rfl
@[simp] theorem State.respond_pace (st : Status) (bytes : List Byte) : (s.respond st bytes).pace = s.pace := rfl
@[simp] theorem State.respond_responses (st : Status) (bytes : List Byte) : (s.respond st bytes).responses = s.responses ++ [st.word :: packBytes bytes] := rfl
@[simp] theorem State.respond_trace (st : Status) (bytes : List Byte) : (s.respond st bytes).trace = s.trace := rfl
@[simp] theorem State.respond_refusedMark (st : Status) (bytes : List Byte) : (s.respond st bytes).refusedMark = s.refusedMark := rfl
@[simp] theorem State.respond_params (st : Status) (bytes : List Byte) : (s.respond st bytes).params = s.params := rfl

/-! ### State.raise -/

@[simp] theorem State.raise_configured (st : Status) : (s.raise st).configured = s.configured := rfl
@[simp] theorem State.raise_isOpen (st : Status) : (s.raise st).isOpen = s.isOpen := rfl
@[simp] theorem State.raise_gpioFault (st : Status) : (s.raise st).gpioFault = s.gpioFault := rfl
@[simp] theorem State.raise_clkPin (st : Status) : (s.raise st).clkPin = s.clkPin := rfl
@[simp] theorem State.raise_misoPin (st : Status) : (s.raise st).misoPin = s.misoPin := rfl
@[simp] theorem State.raise_mosiPin (st : Status) : (s.raise st).mosiPin = s.mosiPin := rfl
@[simp] theorem State.raise_csPin (st : Status) : (s.raise st).csPin = s.csPin := rfl
@[simp] theorem State.raise_csAct (st : Status) : (s.raise st).csAct = s.csAct := rfl
@[simp] theorem State.raise_mode (st : Status) : (s.raise st).mode = s.mode := rfl
@[simp] theorem State.raise_bitOrd (st : Status) : (s.raise st).bitOrd = s.bitOrd := rfl
@[simp] theorem State.raise_seq (st : Status) : (s.raise st).seq = .idle := rfl
@[simp] theorem State.raise_cmd (st : Status) : (s.raise st).cmd = none := rfl
@[simp] theorem State.raise_rdf (st : Status) : (s.raise st).rdf = s.rdf := rfl
@[simp] theorem State.raise_wrf (st : Status) : (s.raise st).wrf = s.wrf := rfl
@[simp] theorem State.raise_regN (st : Status) : (s.raise st).regN = s.regN := rfl
@[simp] theorem State.raise_regK (st : Status) : (s.raise st).regK = s.regK := rfl
@[simp] theorem State.raise_regI (st : Status) : (s.raise st).regI = s.regI := rfl
@[simp] theorem State.raise_txb (st : Status) : (s.raise st).txb = s.txb := rfl
@[simp] theorem State.raise_rxb (st : Status) : (s.raise st).rxb = s.rxb := rfl
@[simp] theorem State.raise_regS (st : Status) : (s.raise st).regS = s.regS := rfl
@[simp] theorem State.raise_res (st : Status) : (s.raise st).res = s.res := rfl
@[simp] theorem State.raise_cmdPort (st : Status) : (s.raise st).cmdPort = s.cmdPort := rfl
@[simp] theorem State.raise_replies (st : Status) : (s.raise st).replies = s.replies := rfl
@[simp] theorem State.raise_resetPin (st : Status) : (s.raise st).resetPin = s.resetPin := rfl
@[simp] theorem State.raise_pace (st : Status) : (s.raise st).pace = s.pace := rfl
@[simp] theorem State.raise_responses (st : Status) : (s.raise st).responses = s.responses ++ [[st.word]] := rfl
@[simp] theorem State.raise_trace (st : Status) : (s.raise st).trace = s.trace := rfl
@[simp] theorem State.raise_refusedMark (st : Status) : (s.raise st).refusedMark = s.refusedMark := rfl
@[simp] theorem State.raise_params (st : Status) : (s.raise st).params = s.params := rfl

/-! ### State.refuse -/

@[simp] theorem State.refuse_configured (c : RefusedCause) : (s.refuse c).configured = s.configured := rfl
@[simp] theorem State.refuse_isOpen (c : RefusedCause) : (s.refuse c).isOpen = s.isOpen := rfl
@[simp] theorem State.refuse_gpioFault (c : RefusedCause) : (s.refuse c).gpioFault = s.gpioFault := rfl
@[simp] theorem State.refuse_clkPin (c : RefusedCause) : (s.refuse c).clkPin = s.clkPin := rfl
@[simp] theorem State.refuse_misoPin (c : RefusedCause) : (s.refuse c).misoPin = s.misoPin := rfl
@[simp] theorem State.refuse_mosiPin (c : RefusedCause) : (s.refuse c).mosiPin = s.mosiPin := rfl
@[simp] theorem State.refuse_csPin (c : RefusedCause) : (s.refuse c).csPin = s.csPin := rfl
@[simp] theorem State.refuse_csAct (c : RefusedCause) : (s.refuse c).csAct = s.csAct := rfl
@[simp] theorem State.refuse_mode (c : RefusedCause) : (s.refuse c).mode = s.mode := rfl
@[simp] theorem State.refuse_bitOrd (c : RefusedCause) : (s.refuse c).bitOrd = s.bitOrd := rfl
@[simp] theorem State.refuse_seq (c : RefusedCause) : (s.refuse c).seq = .idle := rfl
@[simp] theorem State.refuse_cmd (c : RefusedCause) : (s.refuse c).cmd = none := rfl
@[simp] theorem State.refuse_rdf (c : RefusedCause) : (s.refuse c).rdf = s.rdf := rfl
@[simp] theorem State.refuse_wrf (c : RefusedCause) : (s.refuse c).wrf = s.wrf := rfl
@[simp] theorem State.refuse_regN (c : RefusedCause) : (s.refuse c).regN = s.regN := rfl
@[simp] theorem State.refuse_regK (c : RefusedCause) : (s.refuse c).regK = s.regK := rfl
@[simp] theorem State.refuse_regI (c : RefusedCause) : (s.refuse c).regI = s.regI := rfl
@[simp] theorem State.refuse_txb (c : RefusedCause) : (s.refuse c).txb = s.txb := rfl
@[simp] theorem State.refuse_rxb (c : RefusedCause) : (s.refuse c).rxb = s.rxb := rfl
@[simp] theorem State.refuse_regS (c : RefusedCause) : (s.refuse c).regS = s.regS := rfl
@[simp] theorem State.refuse_res (c : RefusedCause) : (s.refuse c).res = s.res := rfl
@[simp] theorem State.refuse_cmdPort (c : RefusedCause) : (s.refuse c).cmdPort = s.cmdPort := rfl
@[simp] theorem State.refuse_replies (c : RefusedCause) : (s.refuse c).replies = s.replies := rfl
@[simp] theorem State.refuse_resetPin (c : RefusedCause) : (s.refuse c).resetPin = s.resetPin := rfl
@[simp] theorem State.refuse_pace (c : RefusedCause) : (s.refuse c).pace = s.pace := rfl
@[simp] theorem State.refuse_responses (c : RefusedCause) : (s.refuse c).responses = s.responses ++ [[(Status.refused c).word]] := rfl
@[simp] theorem State.refuse_trace (c : RefusedCause) : (s.refuse c).trace = s.trace := rfl
@[simp] theorem State.refuse_refusedMark (c : RefusedCause) : (s.refuse c).refusedMark = true := rfl
@[simp] theorem State.refuse_params (c : RefusedCause) : (s.refuse c).params = s.params := rfl

/-! ### State.record -/

@[simp] theorem State.record_configured (q : GpioRequest) (r : GpioReply) (rest : List GpioReply) : (s.record q r rest).configured = s.configured := rfl
@[simp] theorem State.record_isOpen (q : GpioRequest) (r : GpioReply) (rest : List GpioReply) : (s.record q r rest).isOpen = s.isOpen := rfl
@[simp] theorem State.record_gpioFault (q : GpioRequest) (r : GpioReply) (rest : List GpioReply) : (s.record q r rest).gpioFault = s.gpioFault := rfl
@[simp] theorem State.record_clkPin (q : GpioRequest) (r : GpioReply) (rest : List GpioReply) : (s.record q r rest).clkPin = s.clkPin := rfl
@[simp] theorem State.record_misoPin (q : GpioRequest) (r : GpioReply) (rest : List GpioReply) : (s.record q r rest).misoPin = s.misoPin := rfl
@[simp] theorem State.record_mosiPin (q : GpioRequest) (r : GpioReply) (rest : List GpioReply) : (s.record q r rest).mosiPin = s.mosiPin := rfl
@[simp] theorem State.record_csPin (q : GpioRequest) (r : GpioReply) (rest : List GpioReply) : (s.record q r rest).csPin = s.csPin := rfl
@[simp] theorem State.record_csAct (q : GpioRequest) (r : GpioReply) (rest : List GpioReply) : (s.record q r rest).csAct = s.csAct := rfl
@[simp] theorem State.record_mode (q : GpioRequest) (r : GpioReply) (rest : List GpioReply) : (s.record q r rest).mode = s.mode := rfl
@[simp] theorem State.record_bitOrd (q : GpioRequest) (r : GpioReply) (rest : List GpioReply) : (s.record q r rest).bitOrd = s.bitOrd := rfl
@[simp] theorem State.record_seq (q : GpioRequest) (r : GpioReply) (rest : List GpioReply) : (s.record q r rest).seq = s.seq := rfl
@[simp] theorem State.record_cmd (q : GpioRequest) (r : GpioReply) (rest : List GpioReply) : (s.record q r rest).cmd = s.cmd := rfl
@[simp] theorem State.record_rdf (q : GpioRequest) (r : GpioReply) (rest : List GpioReply) : (s.record q r rest).rdf = s.rdf := rfl
@[simp] theorem State.record_wrf (q : GpioRequest) (r : GpioReply) (rest : List GpioReply) : (s.record q r rest).wrf = s.wrf := rfl
@[simp] theorem State.record_regN (q : GpioRequest) (r : GpioReply) (rest : List GpioReply) : (s.record q r rest).regN = s.regN := rfl
@[simp] theorem State.record_regK (q : GpioRequest) (r : GpioReply) (rest : List GpioReply) : (s.record q r rest).regK = s.regK := rfl
@[simp] theorem State.record_regI (q : GpioRequest) (r : GpioReply) (rest : List GpioReply) : (s.record q r rest).regI = s.regI := rfl
@[simp] theorem State.record_txb (q : GpioRequest) (r : GpioReply) (rest : List GpioReply) : (s.record q r rest).txb = s.txb := rfl
@[simp] theorem State.record_rxb (q : GpioRequest) (r : GpioReply) (rest : List GpioReply) : (s.record q r rest).rxb = s.rxb := rfl
@[simp] theorem State.record_regS (q : GpioRequest) (r : GpioReply) (rest : List GpioReply) : (s.record q r rest).regS = s.regS := rfl
@[simp] theorem State.record_res (q : GpioRequest) (r : GpioReply) (rest : List GpioReply) : (s.record q r rest).res = s.res := rfl
@[simp] theorem State.record_cmdPort (q : GpioRequest) (r : GpioReply) (rest : List GpioReply) : (s.record q r rest).cmdPort = s.cmdPort := rfl
@[simp] theorem State.record_replies (q : GpioRequest) (r : GpioReply) (rest : List GpioReply) : (s.record q r rest).replies = rest := rfl
@[simp] theorem State.record_resetPin (q : GpioRequest) (r : GpioReply) (rest : List GpioReply) : (s.record q r rest).resetPin = s.resetPin := rfl
@[simp] theorem State.record_pace (q : GpioRequest) (r : GpioReply) (rest : List GpioReply) : (s.record q r rest).pace = s.pace := rfl
@[simp] theorem State.record_responses (q : GpioRequest) (r : GpioReply) (rest : List GpioReply) : (s.record q r rest).responses = s.responses := rfl
@[simp] theorem State.record_trace (q : GpioRequest) (r : GpioReply) (rest : List GpioReply) : (s.record q r rest).trace = s.trace ++ [q.event r] := rfl
@[simp] theorem State.record_refusedMark (q : GpioRequest) (r : GpioReply) (rest : List GpioReply) : (s.record q r rest).refusedMark = s.refusedMark := rfl
@[simp] theorem State.record_params (q : GpioRequest) (r : GpioReply) (rest : List GpioReply) : (s.record q r rest).params = s.params := rfl

/-! ### State.gpioFailed -/

@[simp] theorem State.gpioFailed_configured (q : GpioRequest) : (s.gpioFailed q).configured = s.configured := rfl
@[simp] theorem State.gpioFailed_isOpen (q : GpioRequest) : (s.gpioFailed q).isOpen = s.isOpen := rfl
@[simp] theorem State.gpioFailed_gpioFault (q : GpioRequest) : (s.gpioFailed q).gpioFault = true := rfl
@[simp] theorem State.gpioFailed_clkPin (q : GpioRequest) : (s.gpioFailed q).clkPin = s.clkPin := rfl
@[simp] theorem State.gpioFailed_misoPin (q : GpioRequest) : (s.gpioFailed q).misoPin = s.misoPin := rfl
@[simp] theorem State.gpioFailed_mosiPin (q : GpioRequest) : (s.gpioFailed q).mosiPin = s.mosiPin := rfl
@[simp] theorem State.gpioFailed_csPin (q : GpioRequest) : (s.gpioFailed q).csPin = s.csPin := rfl
@[simp] theorem State.gpioFailed_csAct (q : GpioRequest) : (s.gpioFailed q).csAct = s.csAct := rfl
@[simp] theorem State.gpioFailed_mode (q : GpioRequest) : (s.gpioFailed q).mode = s.mode := rfl
@[simp] theorem State.gpioFailed_bitOrd (q : GpioRequest) : (s.gpioFailed q).bitOrd = s.bitOrd := rfl
@[simp] theorem State.gpioFailed_seq (q : GpioRequest) : (s.gpioFailed q).seq = .idle := rfl
@[simp] theorem State.gpioFailed_cmd (q : GpioRequest) : (s.gpioFailed q).cmd = none := rfl
@[simp] theorem State.gpioFailed_rdf (q : GpioRequest) : (s.gpioFailed q).rdf = s.rdf := rfl
@[simp] theorem State.gpioFailed_wrf (q : GpioRequest) : (s.gpioFailed q).wrf = s.wrf := rfl
@[simp] theorem State.gpioFailed_regN (q : GpioRequest) : (s.gpioFailed q).regN = s.regN := rfl
@[simp] theorem State.gpioFailed_regK (q : GpioRequest) : (s.gpioFailed q).regK = s.regK := rfl
@[simp] theorem State.gpioFailed_regI (q : GpioRequest) : (s.gpioFailed q).regI = s.regI := rfl
@[simp] theorem State.gpioFailed_txb (q : GpioRequest) : (s.gpioFailed q).txb = s.txb := rfl
@[simp] theorem State.gpioFailed_rxb (q : GpioRequest) : (s.gpioFailed q).rxb = s.rxb := rfl
@[simp] theorem State.gpioFailed_regS (q : GpioRequest) : (s.gpioFailed q).regS = s.regS := rfl
@[simp] theorem State.gpioFailed_res (q : GpioRequest) : (s.gpioFailed q).res = s.res := rfl
@[simp] theorem State.gpioFailed_cmdPort (q : GpioRequest) : (s.gpioFailed q).cmdPort = s.cmdPort := rfl
@[simp] theorem State.gpioFailed_replies (q : GpioRequest) : (s.gpioFailed q).replies = s.replies := rfl
@[simp] theorem State.gpioFailed_resetPin (q : GpioRequest) : (s.gpioFailed q).resetPin = s.resetPin := rfl
@[simp] theorem State.gpioFailed_pace (q : GpioRequest) : (s.gpioFailed q).pace = s.pace := rfl
@[simp] theorem State.gpioFailed_responses (q : GpioRequest) : (s.gpioFailed q).responses = s.responses ++ [[(Status.gpioError q.primitive).word]] := rfl
@[simp] theorem State.gpioFailed_trace (q : GpioRequest) : (s.gpioFailed q).trace = s.trace := rfl
@[simp] theorem State.gpioFailed_refusedMark (q : GpioRequest) : (s.gpioFailed q).refusedMark = s.refusedMark := rfl
@[simp] theorem State.gpioFailed_params (q : GpioRequest) : (s.gpioFailed q).params = s.params := rfl

/-! ### State.begin -/

@[simp] theorem State.begin_configured (i : Instr) (pos : Seq) : (s.begin i pos).configured = s.configured := rfl
@[simp] theorem State.begin_isOpen (i : Instr) (pos : Seq) : (s.begin i pos).isOpen = s.isOpen := rfl
@[simp] theorem State.begin_gpioFault (i : Instr) (pos : Seq) : (s.begin i pos).gpioFault = s.gpioFault := rfl
@[simp] theorem State.begin_clkPin (i : Instr) (pos : Seq) : (s.begin i pos).clkPin = s.clkPin := rfl
@[simp] theorem State.begin_misoPin (i : Instr) (pos : Seq) : (s.begin i pos).misoPin = s.misoPin := rfl
@[simp] theorem State.begin_mosiPin (i : Instr) (pos : Seq) : (s.begin i pos).mosiPin = s.mosiPin := rfl
@[simp] theorem State.begin_csPin (i : Instr) (pos : Seq) : (s.begin i pos).csPin = s.csPin := rfl
@[simp] theorem State.begin_csAct (i : Instr) (pos : Seq) : (s.begin i pos).csAct = s.csAct := rfl
@[simp] theorem State.begin_mode (i : Instr) (pos : Seq) : (s.begin i pos).mode = s.mode := rfl
@[simp] theorem State.begin_bitOrd (i : Instr) (pos : Seq) : (s.begin i pos).bitOrd = s.bitOrd := rfl
@[simp] theorem State.begin_seq (i : Instr) (pos : Seq) : (s.begin i pos).seq = pos := rfl
@[simp] theorem State.begin_cmd (i : Instr) (pos : Seq) : (s.begin i pos).cmd = some i := rfl
@[simp] theorem State.begin_rdf (i : Instr) (pos : Seq) : (s.begin i pos).rdf = s.rdf := rfl
@[simp] theorem State.begin_wrf (i : Instr) (pos : Seq) : (s.begin i pos).wrf = s.wrf := rfl
@[simp] theorem State.begin_regN (i : Instr) (pos : Seq) : (s.begin i pos).regN = s.regN := rfl
@[simp] theorem State.begin_regK (i : Instr) (pos : Seq) : (s.begin i pos).regK = s.regK := rfl
@[simp] theorem State.begin_regI (i : Instr) (pos : Seq) : (s.begin i pos).regI = s.regI := rfl
@[simp] theorem State.begin_txb (i : Instr) (pos : Seq) : (s.begin i pos).txb = s.txb := rfl
@[simp] theorem State.begin_rxb (i : Instr) (pos : Seq) : (s.begin i pos).rxb = s.rxb := rfl
@[simp] theorem State.begin_regS (i : Instr) (pos : Seq) : (s.begin i pos).regS = s.regS := rfl
@[simp] theorem State.begin_res (i : Instr) (pos : Seq) : (s.begin i pos).res = s.res := rfl
@[simp] theorem State.begin_cmdPort (i : Instr) (pos : Seq) : (s.begin i pos).cmdPort = s.cmdPort := rfl
@[simp] theorem State.begin_replies (i : Instr) (pos : Seq) : (s.begin i pos).replies = s.replies := rfl
@[simp] theorem State.begin_resetPin (i : Instr) (pos : Seq) : (s.begin i pos).resetPin = s.resetPin := rfl
@[simp] theorem State.begin_pace (i : Instr) (pos : Seq) : (s.begin i pos).pace = s.pace := rfl
@[simp] theorem State.begin_responses (i : Instr) (pos : Seq) : (s.begin i pos).responses = s.responses := rfl
@[simp] theorem State.begin_trace (i : Instr) (pos : Seq) : (s.begin i pos).trace = s.trace := rfl
@[simp] theorem State.begin_refusedMark (i : Instr) (pos : Seq) : (s.begin i pos).refusedMark = s.refusedMark := rfl
@[simp] theorem State.begin_params (i : Instr) (pos : Seq) : (s.begin i pos).params = s.params := rfl

/-! ### State.startBit -/

@[simp] theorem State.startBit_configured (i : Fin 8) : (s.startBit i).configured = s.configured := rfl
@[simp] theorem State.startBit_isOpen (i : Fin 8) : (s.startBit i).isOpen = s.isOpen := rfl
@[simp] theorem State.startBit_gpioFault (i : Fin 8) : (s.startBit i).gpioFault = s.gpioFault := rfl
@[simp] theorem State.startBit_clkPin (i : Fin 8) : (s.startBit i).clkPin = s.clkPin := rfl
@[simp] theorem State.startBit_misoPin (i : Fin 8) : (s.startBit i).misoPin = s.misoPin := rfl
@[simp] theorem State.startBit_mosiPin (i : Fin 8) : (s.startBit i).mosiPin = s.mosiPin := rfl
@[simp] theorem State.startBit_csPin (i : Fin 8) : (s.startBit i).csPin = s.csPin := rfl
@[simp] theorem State.startBit_csAct (i : Fin 8) : (s.startBit i).csAct = s.csAct := rfl
@[simp] theorem State.startBit_mode (i : Fin 8) : (s.startBit i).mode = s.mode := rfl
@[simp] theorem State.startBit_bitOrd (i : Fin 8) : (s.startBit i).bitOrd = s.bitOrd := rfl
@[simp] theorem State.startBit_seq (i : Fin 8) : (s.startBit i).seq = .bit .mosi := rfl
@[simp] theorem State.startBit_cmd (i : Fin 8) : (s.startBit i).cmd = s.cmd := rfl
@[simp] theorem State.startBit_rdf (i : Fin 8) : (s.startBit i).rdf = s.rdf := rfl
@[simp] theorem State.startBit_wrf (i : Fin 8) : (s.startBit i).wrf = s.wrf := rfl
@[simp] theorem State.startBit_regN (i : Fin 8) : (s.startBit i).regN = s.regN := rfl
@[simp] theorem State.startBit_regK (i : Fin 8) : (s.startBit i).regK = s.regK := rfl
@[simp] theorem State.startBit_regI (i : Fin 8) : (s.startBit i).regI = i := rfl
@[simp] theorem State.startBit_txb (i : Fin 8) : (s.startBit i).txb = s.txb := rfl
@[simp] theorem State.startBit_rxb (i : Fin 8) : (s.startBit i).rxb = s.rxb := rfl
@[simp] theorem State.startBit_regS (i : Fin 8) : (s.startBit i).regS = .low := rfl
@[simp] theorem State.startBit_res (i : Fin 8) : (s.startBit i).res = s.res := rfl
@[simp] theorem State.startBit_cmdPort (i : Fin 8) : (s.startBit i).cmdPort = s.cmdPort := rfl
@[simp] theorem State.startBit_replies (i : Fin 8) : (s.startBit i).replies = s.replies := rfl
@[simp] theorem State.startBit_resetPin (i : Fin 8) : (s.startBit i).resetPin = s.resetPin := rfl
@[simp] theorem State.startBit_pace (i : Fin 8) : (s.startBit i).pace = s.pace := rfl
@[simp] theorem State.startBit_responses (i : Fin 8) : (s.startBit i).responses = s.responses := rfl
@[simp] theorem State.startBit_trace (i : Fin 8) : (s.startBit i).trace = s.trace := rfl
@[simp] theorem State.startBit_refusedMark (i : Fin 8) : (s.startBit i).refusedMark = s.refusedMark := rfl
@[simp] theorem State.startBit_params (i : Fin 8) : (s.startBit i).params = s.params := rfl

/-! ### State.startByte -/

@[simp] theorem State.startByte_configured (k : Word) : (s.startByte k).configured = s.configured := rfl
@[simp] theorem State.startByte_isOpen (k : Word) : (s.startByte k).isOpen = s.isOpen := rfl
@[simp] theorem State.startByte_gpioFault (k : Word) : (s.startByte k).gpioFault = s.gpioFault := rfl
@[simp] theorem State.startByte_clkPin (k : Word) : (s.startByte k).clkPin = s.clkPin := rfl
@[simp] theorem State.startByte_misoPin (k : Word) : (s.startByte k).misoPin = s.misoPin := rfl
@[simp] theorem State.startByte_mosiPin (k : Word) : (s.startByte k).mosiPin = s.mosiPin := rfl
@[simp] theorem State.startByte_csPin (k : Word) : (s.startByte k).csPin = s.csPin := rfl
@[simp] theorem State.startByte_csAct (k : Word) : (s.startByte k).csAct = s.csAct := rfl
@[simp] theorem State.startByte_mode (k : Word) : (s.startByte k).mode = s.mode := rfl
@[simp] theorem State.startByte_bitOrd (k : Word) : (s.startByte k).bitOrd = s.bitOrd := rfl
@[simp] theorem State.startByte_seq (k : Word) : (s.startByte k).seq = .bit .mosi := rfl
@[simp] theorem State.startByte_cmd (k : Word) : (s.startByte k).cmd = s.cmd := rfl
@[simp] theorem State.startByte_rdf (k : Word) : (s.startByte k).rdf = s.rdf := rfl
@[simp] theorem State.startByte_wrf (k : Word) : (s.startByte k).wrf = s.wrf := rfl
@[simp] theorem State.startByte_regN (k : Word) : (s.startByte k).regN = s.regN := rfl
@[simp] theorem State.startByte_regK (k : Word) : (s.startByte k).regK = k := rfl
@[simp] theorem State.startByte_regI (k : Word) : (s.startByte k).regI = 0 := rfl
@[simp] theorem State.startByte_txb (k : Word) : (s.startByte k).txb = payloadByte s.cmd k := rfl
@[simp] theorem State.startByte_rxb (k : Word) : (s.startByte k).rxb = 0 := rfl
@[simp] theorem State.startByte_regS (k : Word) : (s.startByte k).regS = .low := rfl
@[simp] theorem State.startByte_res (k : Word) : (s.startByte k).res = s.res := rfl
@[simp] theorem State.startByte_cmdPort (k : Word) : (s.startByte k).cmdPort = s.cmdPort := rfl
@[simp] theorem State.startByte_replies (k : Word) : (s.startByte k).replies = s.replies := rfl
@[simp] theorem State.startByte_resetPin (k : Word) : (s.startByte k).resetPin = s.resetPin := rfl
@[simp] theorem State.startByte_pace (k : Word) : (s.startByte k).pace = s.pace := rfl
@[simp] theorem State.startByte_responses (k : Word) : (s.startByte k).responses = s.responses := rfl
@[simp] theorem State.startByte_trace (k : Word) : (s.startByte k).trace = s.trace := rfl
@[simp] theorem State.startByte_refusedMark (k : Word) : (s.startByte k).refusedMark = s.refusedMark := rfl
@[simp] theorem State.startByte_params (k : Word) : (s.startByte k).params = s.params := rfl

/-! ### State.beginTransfer -/

@[simp] theorem State.beginTransfer_configured (i : Instr) (rd wr : Bool) (n : Word) : (s.beginTransfer i rd wr n).configured = s.configured := rfl
@[simp] theorem State.beginTransfer_isOpen (i : Instr) (rd wr : Bool) (n : Word) : (s.beginTransfer i rd wr n).isOpen = s.isOpen := rfl
@[simp] theorem State.beginTransfer_gpioFault (i : Instr) (rd wr : Bool) (n : Word) : (s.beginTransfer i rd wr n).gpioFault = s.gpioFault := rfl
@[simp] theorem State.beginTransfer_clkPin (i : Instr) (rd wr : Bool) (n : Word) : (s.beginTransfer i rd wr n).clkPin = s.clkPin := rfl
@[simp] theorem State.beginTransfer_misoPin (i : Instr) (rd wr : Bool) (n : Word) : (s.beginTransfer i rd wr n).misoPin = s.misoPin := rfl
@[simp] theorem State.beginTransfer_mosiPin (i : Instr) (rd wr : Bool) (n : Word) : (s.beginTransfer i rd wr n).mosiPin = s.mosiPin := rfl
@[simp] theorem State.beginTransfer_csPin (i : Instr) (rd wr : Bool) (n : Word) : (s.beginTransfer i rd wr n).csPin = s.csPin := rfl
@[simp] theorem State.beginTransfer_csAct (i : Instr) (rd wr : Bool) (n : Word) : (s.beginTransfer i rd wr n).csAct = s.csAct := rfl
@[simp] theorem State.beginTransfer_mode (i : Instr) (rd wr : Bool) (n : Word) : (s.beginTransfer i rd wr n).mode = s.mode := rfl
@[simp] theorem State.beginTransfer_bitOrd (i : Instr) (rd wr : Bool) (n : Word) : (s.beginTransfer i rd wr n).bitOrd = s.bitOrd := rfl
@[simp] theorem State.beginTransfer_seq (i : Instr) (rd wr : Bool) (n : Word) : (s.beginTransfer i rd wr n).seq = .csOn := rfl
@[simp] theorem State.beginTransfer_cmd (i : Instr) (rd wr : Bool) (n : Word) : (s.beginTransfer i rd wr n).cmd = some i := rfl
@[simp] theorem State.beginTransfer_rdf (i : Instr) (rd wr : Bool) (n : Word) : (s.beginTransfer i rd wr n).rdf = rd := rfl
@[simp] theorem State.beginTransfer_wrf (i : Instr) (rd wr : Bool) (n : Word) : (s.beginTransfer i rd wr n).wrf = wr := rfl
@[simp] theorem State.beginTransfer_regN (i : Instr) (rd wr : Bool) (n : Word) : (s.beginTransfer i rd wr n).regN = n := rfl
@[simp] theorem State.beginTransfer_regK (i : Instr) (rd wr : Bool) (n : Word) : (s.beginTransfer i rd wr n).regK = s.regK := rfl
@[simp] theorem State.beginTransfer_regI (i : Instr) (rd wr : Bool) (n : Word) : (s.beginTransfer i rd wr n).regI = s.regI := rfl
@[simp] theorem State.beginTransfer_txb (i : Instr) (rd wr : Bool) (n : Word) : (s.beginTransfer i rd wr n).txb = s.txb := rfl
@[simp] theorem State.beginTransfer_rxb (i : Instr) (rd wr : Bool) (n : Word) : (s.beginTransfer i rd wr n).rxb = s.rxb := rfl
@[simp] theorem State.beginTransfer_regS (i : Instr) (rd wr : Bool) (n : Word) : (s.beginTransfer i rd wr n).regS = s.regS := rfl
@[simp] theorem State.beginTransfer_res (i : Instr) (rd wr : Bool) (n : Word) : (s.beginTransfer i rd wr n).res = [] := rfl
@[simp] theorem State.beginTransfer_cmdPort (i : Instr) (rd wr : Bool) (n : Word) : (s.beginTransfer i rd wr n).cmdPort = s.cmdPort := rfl
@[simp] theorem State.beginTransfer_replies (i : Instr) (rd wr : Bool) (n : Word) : (s.beginTransfer i rd wr n).replies = s.replies := rfl
@[simp] theorem State.beginTransfer_resetPin (i : Instr) (rd wr : Bool) (n : Word) : (s.beginTransfer i rd wr n).resetPin = s.resetPin := rfl
@[simp] theorem State.beginTransfer_pace (i : Instr) (rd wr : Bool) (n : Word) : (s.beginTransfer i rd wr n).pace = s.pace := rfl
@[simp] theorem State.beginTransfer_responses (i : Instr) (rd wr : Bool) (n : Word) : (s.beginTransfer i rd wr n).responses = s.responses := rfl
@[simp] theorem State.beginTransfer_trace (i : Instr) (rd wr : Bool) (n : Word) : (s.beginTransfer i rd wr n).trace = s.trace := rfl
@[simp] theorem State.beginTransfer_refusedMark (i : Instr) (rd wr : Bool) (n : Word) : (s.beginTransfer i rd wr n).refusedMark = s.refusedMark := rfl
@[simp] theorem State.beginTransfer_params (i : Instr) (rd wr : Bool) (n : Word) : (s.beginTransfer i rd wr n).params = s.params := rfl

/-! ### State.configure -/

@[simp] theorem State.configure_configured (clk : PinId) (miso mosi cs : Option PinId) (csact : Level) (mode : BitVec 2) (ord : BitOrder) : (s.configure clk miso mosi cs csact mode ord).configured = true := rfl
@[simp] theorem State.configure_isOpen (clk : PinId) (miso mosi cs : Option PinId) (csact : Level) (mode : BitVec 2) (ord : BitOrder) : (s.configure clk miso mosi cs csact mode ord).isOpen = false := rfl
@[simp] theorem State.configure_gpioFault (clk : PinId) (miso mosi cs : Option PinId) (csact : Level) (mode : BitVec 2) (ord : BitOrder) : (s.configure clk miso mosi cs csact mode ord).gpioFault = s.gpioFault := rfl
@[simp] theorem State.configure_clkPin (clk : PinId) (miso mosi cs : Option PinId) (csact : Level) (mode : BitVec 2) (ord : BitOrder) : (s.configure clk miso mosi cs csact mode ord).clkPin = clk := rfl
@[simp] theorem State.configure_misoPin (clk : PinId) (miso mosi cs : Option PinId) (csact : Level) (mode : BitVec 2) (ord : BitOrder) : (s.configure clk miso mosi cs csact mode ord).misoPin = miso := rfl
@[simp] theorem State.configure_mosiPin (clk : PinId) (miso mosi cs : Option PinId) (csact : Level) (mode : BitVec 2) (ord : BitOrder) : (s.configure clk miso mosi cs csact mode ord).mosiPin = mosi := rfl
@[simp] theorem State.configure_csPin (clk : PinId) (miso mosi cs : Option PinId) (csact : Level) (mode : BitVec 2) (ord : BitOrder) : (s.configure clk miso mosi cs csact mode ord).csPin = cs := rfl
@[simp] theorem State.configure_csAct (clk : PinId) (miso mosi cs : Option PinId) (csact : Level) (mode : BitVec 2) (ord : BitOrder) : (s.configure clk miso mosi cs csact mode ord).csAct = csact := rfl
@[simp] theorem State.configure_mode (clk : PinId) (miso mosi cs : Option PinId) (csact : Level) (mode : BitVec 2) (ord : BitOrder) : (s.configure clk miso mosi cs csact mode ord).mode = mode := rfl
@[simp] theorem State.configure_bitOrd (clk : PinId) (miso mosi cs : Option PinId) (csact : Level) (mode : BitVec 2) (ord : BitOrder) : (s.configure clk miso mosi cs csact mode ord).bitOrd = ord := rfl
@[simp] theorem State.configure_seq (clk : PinId) (miso mosi cs : Option PinId) (csact : Level) (mode : BitVec 2) (ord : BitOrder) : (s.configure clk miso mosi cs csact mode ord).seq = s.seq := rfl
@[simp] theorem State.configure_cmd (clk : PinId) (miso mosi cs : Option PinId) (csact : Level) (mode : BitVec 2) (ord : BitOrder) : (s.configure clk miso mosi cs csact mode ord).cmd = s.cmd := rfl
@[simp] theorem State.configure_rdf (clk : PinId) (miso mosi cs : Option PinId) (csact : Level) (mode : BitVec 2) (ord : BitOrder) : (s.configure clk miso mosi cs csact mode ord).rdf = s.rdf := rfl
@[simp] theorem State.configure_wrf (clk : PinId) (miso mosi cs : Option PinId) (csact : Level) (mode : BitVec 2) (ord : BitOrder) : (s.configure clk miso mosi cs csact mode ord).wrf = s.wrf := rfl
@[simp] theorem State.configure_regN (clk : PinId) (miso mosi cs : Option PinId) (csact : Level) (mode : BitVec 2) (ord : BitOrder) : (s.configure clk miso mosi cs csact mode ord).regN = s.regN := rfl
@[simp] theorem State.configure_regK (clk : PinId) (miso mosi cs : Option PinId) (csact : Level) (mode : BitVec 2) (ord : BitOrder) : (s.configure clk miso mosi cs csact mode ord).regK = s.regK := rfl
@[simp] theorem State.configure_regI (clk : PinId) (miso mosi cs : Option PinId) (csact : Level) (mode : BitVec 2) (ord : BitOrder) : (s.configure clk miso mosi cs csact mode ord).regI = s.regI := rfl
@[simp] theorem State.configure_txb (clk : PinId) (miso mosi cs : Option PinId) (csact : Level) (mode : BitVec 2) (ord : BitOrder) : (s.configure clk miso mosi cs csact mode ord).txb = s.txb := rfl
@[simp] theorem State.configure_rxb (clk : PinId) (miso mosi cs : Option PinId) (csact : Level) (mode : BitVec 2) (ord : BitOrder) : (s.configure clk miso mosi cs csact mode ord).rxb = s.rxb := rfl
@[simp] theorem State.configure_regS (clk : PinId) (miso mosi cs : Option PinId) (csact : Level) (mode : BitVec 2) (ord : BitOrder) : (s.configure clk miso mosi cs csact mode ord).regS = s.regS := rfl
@[simp] theorem State.configure_res (clk : PinId) (miso mosi cs : Option PinId) (csact : Level) (mode : BitVec 2) (ord : BitOrder) : (s.configure clk miso mosi cs csact mode ord).res = s.res := rfl
@[simp] theorem State.configure_cmdPort (clk : PinId) (miso mosi cs : Option PinId) (csact : Level) (mode : BitVec 2) (ord : BitOrder) : (s.configure clk miso mosi cs csact mode ord).cmdPort = s.cmdPort := rfl
@[simp] theorem State.configure_replies (clk : PinId) (miso mosi cs : Option PinId) (csact : Level) (mode : BitVec 2) (ord : BitOrder) : (s.configure clk miso mosi cs csact mode ord).replies = s.replies := rfl
@[simp] theorem State.configure_resetPin (clk : PinId) (miso mosi cs : Option PinId) (csact : Level) (mode : BitVec 2) (ord : BitOrder) : (s.configure clk miso mosi cs csact mode ord).resetPin = s.resetPin := rfl
@[simp] theorem State.configure_pace (clk : PinId) (miso mosi cs : Option PinId) (csact : Level) (mode : BitVec 2) (ord : BitOrder) : (s.configure clk miso mosi cs csact mode ord).pace = s.pace := rfl
@[simp] theorem State.configure_responses (clk : PinId) (miso mosi cs : Option PinId) (csact : Level) (mode : BitVec 2) (ord : BitOrder) : (s.configure clk miso mosi cs csact mode ord).responses = s.responses := rfl
@[simp] theorem State.configure_trace (clk : PinId) (miso mosi cs : Option PinId) (csact : Level) (mode : BitVec 2) (ord : BitOrder) : (s.configure clk miso mosi cs csact mode ord).trace = s.trace := rfl
@[simp] theorem State.configure_refusedMark (clk : PinId) (miso mosi cs : Option PinId) (csact : Level) (mode : BitVec 2) (ord : BitOrder) : (s.configure clk miso mosi cs csact mode ord).refusedMark = s.refusedMark := rfl
@[simp] theorem State.configure_params (clk : PinId) (miso mosi cs : Option PinId) (csact : Level) (mode : BitVec 2) (ord : BitOrder) : (s.configure clk miso mosi cs csact mode ord).params = s.params := rfl

/-! ### State.applyReset -/

@[simp] theorem State.applyReset_configured : (s.applyReset).configured = false := rfl
@[simp] theorem State.applyReset_isOpen : (s.applyReset).isOpen = false := rfl
@[simp] theorem State.applyReset_gpioFault : (s.applyReset).gpioFault = false := rfl
@[simp] theorem State.applyReset_clkPin : (s.applyReset).clkPin = 0 := rfl
@[simp] theorem State.applyReset_misoPin : (s.applyReset).misoPin = none := rfl
@[simp] theorem State.applyReset_mosiPin : (s.applyReset).mosiPin = none := rfl
@[simp] theorem State.applyReset_csPin : (s.applyReset).csPin = none := rfl
@[simp] theorem State.applyReset_csAct : (s.applyReset).csAct = .low := rfl
@[simp] theorem State.applyReset_mode : (s.applyReset).mode = 0 := rfl
@[simp] theorem State.applyReset_bitOrd : (s.applyReset).bitOrd = .msb := rfl
@[simp] theorem State.applyReset_seq : (s.applyReset).seq = .idle := rfl
@[simp] theorem State.applyReset_cmd : (s.applyReset).cmd = none := rfl
@[simp] theorem State.applyReset_rdf : (s.applyReset).rdf = false := rfl
@[simp] theorem State.applyReset_wrf : (s.applyReset).wrf = false := rfl
@[simp] theorem State.applyReset_regN : (s.applyReset).regN = 0 := rfl
@[simp] theorem State.applyReset_regK : (s.applyReset).regK = 0 := rfl
@[simp] theorem State.applyReset_regI : (s.applyReset).regI = 0 := rfl
@[simp] theorem State.applyReset_txb : (s.applyReset).txb = 0 := rfl
@[simp] theorem State.applyReset_rxb : (s.applyReset).rxb = 0 := rfl
@[simp] theorem State.applyReset_regS : (s.applyReset).regS = .low := rfl
@[simp] theorem State.applyReset_res : (s.applyReset).res = [] := rfl
@[simp] theorem State.applyReset_cmdPort : (s.applyReset).cmdPort = s.cmdPort := rfl
@[simp] theorem State.applyReset_replies : (s.applyReset).replies = s.replies := rfl
@[simp] theorem State.applyReset_resetPin : (s.applyReset).resetPin = false := rfl
@[simp] theorem State.applyReset_pace : (s.applyReset).pace = s.pace := rfl
@[simp] theorem State.applyReset_responses : (s.applyReset).responses = s.responses := rfl
@[simp] theorem State.applyReset_trace : (s.applyReset).trace = s.trace := rfl
@[simp] theorem State.applyReset_refusedMark : (s.applyReset).refusedMark = false := rfl
@[simp] theorem State.applyReset_params : (s.applyReset).params = s.params := rfl

/-! ### State.goto -/

@[simp] theorem State.goto_configured (pos : Seq) : (s.goto pos).configured = s.configured := rfl
@[simp] theorem State.goto_isOpen (pos : Seq) : (s.goto pos).isOpen = s.isOpen := rfl
@[simp] theorem State.goto_gpioFault (pos : Seq) : (s.goto pos).gpioFault = s.gpioFault := rfl
@[simp] theorem State.goto_clkPin (pos : Seq) : (s.goto pos).clkPin = s.clkPin := rfl
@[simp] theorem State.goto_misoPin (pos : Seq) : (s.goto pos).misoPin = s.misoPin := rfl
@[simp] theorem State.goto_mosiPin (pos : Seq) : (s.goto pos).mosiPin = s.mosiPin := rfl
@[simp] theorem State.goto_csPin (pos : Seq) : (s.goto pos).csPin = s.csPin := rfl
@[simp] theorem State.goto_csAct (pos : Seq) : (s.goto pos).csAct = s.csAct := rfl
@[simp] theorem State.goto_mode (pos : Seq) : (s.goto pos).mode = s.mode := rfl
@[simp] theorem State.goto_bitOrd (pos : Seq) : (s.goto pos).bitOrd = s.bitOrd := rfl
@[simp] theorem State.goto_seq (pos : Seq) : (s.goto pos).seq = pos := rfl
@[simp] theorem State.goto_cmd (pos : Seq) : (s.goto pos).cmd = s.cmd := rfl
@[simp] theorem State.goto_rdf (pos : Seq) : (s.goto pos).rdf = s.rdf := rfl
@[simp] theorem State.goto_wrf (pos : Seq) : (s.goto pos).wrf = s.wrf := rfl
@[simp] theorem State.goto_regN (pos : Seq) : (s.goto pos).regN = s.regN := rfl
@[simp] theorem State.goto_regK (pos : Seq) : (s.goto pos).regK = s.regK := rfl
@[simp] theorem State.goto_regI (pos : Seq) : (s.goto pos).regI = s.regI := rfl
@[simp] theorem State.goto_txb (pos : Seq) : (s.goto pos).txb = s.txb := rfl
@[simp] theorem State.goto_rxb (pos : Seq) : (s.goto pos).rxb = s.rxb := rfl
@[simp] theorem State.goto_regS (pos : Seq) : (s.goto pos).regS = s.regS := rfl
@[simp] theorem State.goto_res (pos : Seq) : (s.goto pos).res = s.res := rfl
@[simp] theorem State.goto_cmdPort (pos : Seq) : (s.goto pos).cmdPort = s.cmdPort := rfl
@[simp] theorem State.goto_replies (pos : Seq) : (s.goto pos).replies = s.replies := rfl
@[simp] theorem State.goto_resetPin (pos : Seq) : (s.goto pos).resetPin = s.resetPin := rfl
@[simp] theorem State.goto_pace (pos : Seq) : (s.goto pos).pace = s.pace := rfl
@[simp] theorem State.goto_responses (pos : Seq) : (s.goto pos).responses = s.responses := rfl
@[simp] theorem State.goto_trace (pos : Seq) : (s.goto pos).trace = s.trace := rfl
@[simp] theorem State.goto_refusedMark (pos : Seq) : (s.goto pos).refusedMark = s.refusedMark := rfl
@[simp] theorem State.goto_params (pos : Seq) : (s.goto pos).params = s.params := rfl

/-! ### State.sampled -/

@[simp] theorem State.sampled_configured (a : Option Level) : (s.sampled a).configured = s.configured := rfl
@[simp] theorem State.sampled_isOpen (a : Option Level) : (s.sampled a).isOpen = s.isOpen := rfl
@[simp] theorem State.sampled_gpioFault (a : Option Level) : (s.sampled a).gpioFault = s.gpioFault := rfl
@[simp] theorem State.sampled_clkPin (a : Option Level) : (s.sampled a).clkPin = s.clkPin := rfl
@[simp] theorem State.sampled_misoPin (a : Option Level) : (s.sampled a).misoPin = s.misoPin := rfl
@[simp] theorem State.sampled_mosiPin (a : Option Level) : (s.sampled a).mosiPin = s.mosiPin := rfl
@[simp] theorem State.sampled_csPin (a : Option Level) : (s.sampled a).csPin = s.csPin := rfl
@[simp] theorem State.sampled_csAct (a : Option Level) : (s.sampled a).csAct = s.csAct := rfl
@[simp] theorem State.sampled_mode (a : Option Level) : (s.sampled a).mode = s.mode := rfl
@[simp] theorem State.sampled_bitOrd (a : Option Level) : (s.sampled a).bitOrd = s.bitOrd := rfl
@[simp] theorem State.sampled_seq (a : Option Level) : (s.sampled a).seq = s.seq := rfl
@[simp] theorem State.sampled_cmd (a : Option Level) : (s.sampled a).cmd = s.cmd := rfl
@[simp] theorem State.sampled_rdf (a : Option Level) : (s.sampled a).rdf = s.rdf := rfl
@[simp] theorem State.sampled_wrf (a : Option Level) : (s.sampled a).wrf = s.wrf := rfl
@[simp] theorem State.sampled_regN (a : Option Level) : (s.sampled a).regN = s.regN := rfl
@[simp] theorem State.sampled_regK (a : Option Level) : (s.sampled a).regK = s.regK := rfl
@[simp] theorem State.sampled_regI (a : Option Level) : (s.sampled a).regI = s.regI := rfl
@[simp] theorem State.sampled_txb (a : Option Level) : (s.sampled a).txb = s.txb := rfl
@[simp] theorem State.sampled_rxb (a : Option Level) : (s.sampled a).rxb = s.rxb := rfl
@[simp] theorem State.sampled_regS (a : Option Level) : (s.sampled a).regS = a.getD s.regS := rfl
@[simp] theorem State.sampled_res (a : Option Level) : (s.sampled a).res = s.res := rfl
@[simp] theorem State.sampled_cmdPort (a : Option Level) : (s.sampled a).cmdPort = s.cmdPort := rfl
@[simp] theorem State.sampled_replies (a : Option Level) : (s.sampled a).replies = s.replies := rfl
@[simp] theorem State.sampled_resetPin (a : Option Level) : (s.sampled a).resetPin = s.resetPin := rfl
@[simp] theorem State.sampled_pace (a : Option Level) : (s.sampled a).pace = s.pace := rfl
@[simp] theorem State.sampled_responses (a : Option Level) : (s.sampled a).responses = s.responses := rfl
@[simp] theorem State.sampled_trace (a : Option Level) : (s.sampled a).trace = s.trace := rfl
@[simp] theorem State.sampled_refusedMark (a : Option Level) : (s.sampled a).refusedMark = s.refusedMark := rfl
@[simp] theorem State.sampled_params (a : Option Level) : (s.sampled a).params = s.params := rfl

/-! ### Derived fields do not look at SEQ -/

@[simp] theorem State.goto_cpha (pos : Seq) : (s.goto pos).cpha = s.cpha := rfl
@[simp] theorem State.goto_cpol (pos : Seq) : (s.goto pos).cpol = s.cpol := rfl
@[simp] theorem State.goto_trigLevel (pos : Seq) : (s.goto pos).trigLevel = s.trigLevel := rfl
@[simp] theorem State.goto_idleLevel (pos : Seq) : (s.goto pos).idleLevel = s.idleLevel := rfl

end Sys2Proof.Machine
end

