-- ==== Sys2Proof/Laws/Sequencer.lean ====
section
/-! SUPPORT. What one sequencer position and the running engine can do: one lemma per fact, cited instead of unfolding
`seqStep`, `drive` and `runEngine` (spec 10_state R33; 20_memory R52; 60_exceptions R206). -/

namespace Sys2Proof.Machine

/-- What no sequencer position touches: the configuration registers, the outside but its replies, CONFIGURED, the refusal
mark. -/
structure SeqKeeps (s t : State) : Prop where
  config : SameConfig s t
  outside : SameOutside s t
  configured : t.configured = s.configured
  refusedMark : t.refusedMark = s.refusedMark

theorem SeqKeeps.refl (s : State) : SeqKeeps s s := by constructor <;> constructor <;> rfl

theorem SeqKeeps.trans {s t u : State} (h : SeqKeeps s t) (k : SeqKeeps t u) : SeqKeeps s u := by
  obtain ⟨⟨a1, a2, a3, a4, a5, a6, a7⟩, ⟨b1, b2, b3, b4⟩, c, d⟩ := h
  obtain ⟨⟨a1', a2', a3', a4', a5', a6', a7'⟩, ⟨b1', b2', b3', b4'⟩, c', d'⟩ := k
  exact ⟨⟨a1'.trans a1, a2'.trans a2, a3'.trans a3, a4'.trans a4, a5'.trans a5, a6'.trans a6, a7'.trans a7⟩,
    ⟨b1'.trans b1, b2'.trans b2, b3'.trans b3, b4'.trans b4⟩, c'.trans c, d'.trans d⟩

/-! ### The end of a bit and of a byte -/

/-- The end of a byte goes on with the next byte or with the deassert of client-select (R152). -/
theorem endByte_cases (s : State) :
    (s.regK.toNat + 1 < s.regN.toNat ∧ s.endByte = { s with res := s.res ++ [s.rxb] }.startByte (s.regK + 1)) ∨
    (¬ s.regK.toNat + 1 < s.regN.toNat ∧ s.endByte = { s with res := s.res ++ [s.rxb] }.goto .csOff) := by
  by_cases h : s.regK.toNat + 1 < s.regN.toNat
  · exact .inl ⟨h, by simp [State.endByte, h]⟩
  · exact .inr ⟨h, by simp [State.endByte, h]⟩

/-- Step 6 goes on with the next bit position, or after position 7 ends the byte (R157). -/
theorem accStep_cases (s : State) :
    (s.regI.val < 7 ∧
      s.accStep = { s with rxb := accumulate s.bitOrd s.rxb s.regI s.regS }.startBit (s.regI + 1)) ∨
    (¬ s.regI.val < 7 ∧ s.accStep = { s with rxb := accumulate s.bitOrd s.rxb s.regI s.regS }.endByte) := by
  by_cases h : s.regI.val < 7
  · exact .inl ⟨h, by simp [State.accStep, h]⟩
  · exact .inr ⟨h, by simp [State.accStep, h]⟩

theorem endByte_keeps (s : State) : SeqKeeps s s.endByte := by
  obtain ⟨-, h⟩ | ⟨-, h⟩ := endByte_cases s <;> rw [h] <;> constructor <;> constructor <;> rfl

theorem accStep_keeps (s : State) : SeqKeeps s s.accStep := by
  obtain ⟨-, h⟩ | ⟨-, h⟩ := accStep_cases s <;> rw [h]
  · constructor <;> constructor <;> rfl
  · refine SeqKeeps.trans ?_ (endByte_keeps _)
    constructor <;> constructor <;> rfl

/-! ### Moving on from a position -/

theorem advance_keeps (a : Option Level) (s : State) : SeqKeeps s (s.advance a) := by
  unfold State.advance
  split
  case h_12 => split <;> constructor <;> constructor <;> rfl
  case h_18 => exact accStep_keeps s
  all_goals constructor <;> constructor <;> rfl

@[simp] theorem endByte_trace (s : State) : s.endByte.trace = s.trace := by
  obtain ⟨-, h⟩ | ⟨-, h⟩ := endByte_cases s <;> (rw [h]; rfl)

@[simp] theorem endByte_replies (s : State) : s.endByte.replies = s.replies := by
  obtain ⟨-, h⟩ | ⟨-, h⟩ := endByte_cases s <;> (rw [h]; rfl)

@[simp] theorem endByte_gpioFault (s : State) : s.endByte.gpioFault = s.gpioFault := by
  obtain ⟨-, h⟩ | ⟨-, h⟩ := endByte_cases s <;> (rw [h]; rfl)

@[simp] theorem endByte_isOpen (s : State) : s.endByte.isOpen = s.isOpen := by
  obtain ⟨-, h⟩ | ⟨-, h⟩ := endByte_cases s <;> (rw [h]; rfl)

@[simp] theorem endByte_cmd (s : State) : s.endByte.cmd = s.cmd := by
  obtain ⟨-, h⟩ | ⟨-, h⟩ := endByte_cases s <;> (rw [h]; rfl)

@[simp] theorem endByte_responses (s : State) : s.endByte.responses = s.responses := by
  obtain ⟨-, h⟩ | ⟨-, h⟩ := endByte_cases s <;> (rw [h]; rfl)

@[simp] theorem accStep_trace (s : State) : s.accStep.trace = s.trace := by
  obtain ⟨-, h⟩ | ⟨-, h⟩ := accStep_cases s <;> rw [h] <;> simp

@[simp] theorem accStep_replies (s : State) : s.accStep.replies = s.replies := by
  obtain ⟨-, h⟩ | ⟨-, h⟩ := accStep_cases s <;> rw [h] <;> simp

@[simp] theorem accStep_gpioFault (s : State) : s.accStep.gpioFault = s.gpioFault := by
  obtain ⟨-, h⟩ | ⟨-, h⟩ := accStep_cases s <;> rw [h] <;> simp

@[simp] theorem accStep_isOpen (s : State) : s.accStep.isOpen = s.isOpen := by
  obtain ⟨-, h⟩ | ⟨-, h⟩ := accStep_cases s <;> rw [h] <;> simp

@[simp] theorem accStep_cmd (s : State) : s.accStep.cmd = s.cmd := by
  obtain ⟨-, h⟩ | ⟨-, h⟩ := accStep_cases s <;> rw [h] <;> simp

@[simp] theorem accStep_responses (s : State) : s.accStep.responses = s.responses := by
  obtain ⟨-, h⟩ | ⟨-, h⟩ := accStep_cases s <;> rw [h] <;> simp

@[simp] theorem advance_trace (a : Option Level) (s : State) : (s.advance a).trace = s.trace := by
  unfold State.advance; split <;> try simp
  split <;> simp

@[simp] theorem advance_replies (a : Option Level) (s : State) : (s.advance a).replies = s.replies := by
  unfold State.advance; split <;> try simp
  split <;> simp

@[simp] theorem advance_gpioFault (a : Option Level) (s : State) : (s.advance a).gpioFault = s.gpioFault := by
  unfold State.advance; split <;> try simp
  split <;> simp

/-! ### One position -/

/-- What one sequencer position does: it moves on silently, waits, completes its request, or fails with it. -/
theorem seqStep_cases (s : State) :
    (s.request = none ∧ s.seqStep = s.advance none) ∨
    (∃ q, s.request = some q ∧ s.replies = [] ∧ s.seqStep = s) ∨
    (∃ q lv rest, s.request = some q ∧ s.replies = .done lv :: rest ∧
      s.seqStep = (s.record q (.done lv) rest).advance (q.answerOf lv)) ∨
    (∃ q rest, s.request = some q ∧ s.replies = .failed :: rest ∧
      s.seqStep = (s.record q .failed rest).gpioFailed q) := by
  unfold State.seqStep
  cases hq : s.request with
  | none => exact .inl ⟨rfl, rfl⟩
  | some q =>
    cases hr : s.replies with
    | nil => exact .inr (.inl ⟨q, rfl, rfl, rfl⟩)
    | cons r rest =>
      cases r with
      | done lv => exact .inr (.inr (.inl ⟨q, lv, rest, rfl, rfl, rfl⟩))
      | failed => exact .inr (.inr (.inr ⟨q, rest, rfl, rfl, rfl⟩))

theorem record_keeps (q : GpioRequest) (r : GpioReply) (rest : List GpioReply) (s : State) :
    SeqKeeps s (s.record q r rest) := by
  constructor <;> constructor <;> rfl

theorem gpioFailed_keeps (q : GpioRequest) (s : State) : SeqKeeps s (s.gpioFailed q) := by
  constructor <;> constructor <;> rfl

theorem seqStep_keeps (s : State) : SeqKeeps s s.seqStep := by
  obtain ⟨-, h⟩ | ⟨q, -, -, h⟩ | ⟨q, lv, rest, -, -, h⟩ | ⟨q, rest, -, -, h⟩ := seqStep_cases s <;> rw [h]
  · exact advance_keeps none s
  · exact SeqKeeps.refl s
  · exact (record_keeps q _ rest s).trans (advance_keeps _ _)
  · exact (record_keeps q _ rest s).trans (gpioFailed_keeps q _)

/-! ### Running -/

@[simp] theorem drive_zero (s : State) : drive 0 s = s := rfl

theorem drive_succ (n : Nat) (s : State) : drive (n + 1) s = if s.waiting then s else drive n s.seqStep := rfl

/-- An engine that can do nothing on its own stays as it is, however long it may run. -/
theorem drive_of_waiting (n : Nat) {s : State} (h : s.waiting = true) : drive n s = s := by
  cases n with
  | zero => rfl
  | succ n => simp [drive_succ, h]

theorem drive_of_not_waiting (n : Nat) {s : State} (h : s.waiting = false) :
    drive (n + 1) s = drive n s.seqStep := by simp [drive_succ, h]

/-- Running in two goes is running in one. -/
theorem drive_add (m n : Nat) (s : State) : drive (m + n) s = drive n (drive m s) := by
  induction m generalizing s with
  | zero => simp
  | succ m ih =>
    cases h : s.waiting with
    | true => simp [drive_of_waiting _ h]
    | false => rw [Nat.succ_add, drive_of_not_waiting _ h, drive_of_not_waiting _ h, ih]

/-- An induction over running, packaged once: what every position that is not a wait keeps, running keeps. -/
theorem drive_induction {P : State → Prop} (step : ∀ s : State, s.waiting = false → P s → P s.seqStep) :
    ∀ (n : Nat) (s : State), P s → P (drive n s) := by
  intro n
  induction n with
  | zero => exact fun s h => h
  | succ n ih =>
    intro s h
    cases hw : s.waiting with
    | true => rwa [drive_of_waiting _ hw]
    | false => rw [drive_of_not_waiting _ hw]; exact ih _ (step s hw h)

theorem drive_keeps (n : Nat) (s : State) : SeqKeeps s (drive n s) :=
  drive_induction (P := SeqKeeps s) (fun t _ h => h.trans (seqStep_keeps t)) n s (SeqKeeps.refl s)

theorem runEngine_keeps (s : State) : SeqKeeps s s.runEngine := drive_keeps _ s

/-- SEQ is idle or inside OPEN or CLOSE. -/
def State.outsideTransfer (s : State) : Prop := s.seq = .idle ∨ (∃ j, s.seq = .opening j) ∨ ∃ j, s.seq = .closing j

theorem SameDatapath.refl (s : State) : SameDatapath s s := by constructor <;> rfl

theorem SameDatapath.trans {s t u : State} (h : SameDatapath s t) (k : SameDatapath t u) : SameDatapath s u := by
  obtain ⟨a1, a2, a3, a4, a5, a6, a7, a8, a9⟩ := h
  obtain ⟨b1, b2, b3, b4, b5, b6, b7, b8, b9⟩ := k
  exact ⟨b1.trans a1, b2.trans a2, b3.trans a3, b4.trans a4, b5.trans a5, b6.trans a6, b7.trans a7, b8.trans a8,
    b9.trans a9⟩

theorem advance_outsideTransfer (a : Option Level) {s : State} (h : s.outsideTransfer) :
    (s.advance a).outsideTransfer ∧ SameDatapath s (s.advance a) := by
  obtain hs | ⟨j, hs⟩ | ⟨j, hs⟩ := h
  · simp only [State.advance, hs]; exact ⟨.inl hs, .refl s⟩
  · cases j <;> simp only [State.advance, hs] <;>
      exact ⟨by simp [State.outsideTransfer], by constructor <;> rfl⟩
  · cases j <;> simp only [State.advance, hs] <;>
      exact ⟨by simp [State.outsideTransfer], by constructor <;> rfl⟩

theorem seqStep_outsideTransfer {s : State} (h : s.outsideTransfer) :
    s.seqStep.outsideTransfer ∧ SameDatapath s s.seqStep := by
  obtain ⟨-, e⟩ | ⟨q, -, -, e⟩ | ⟨q, lv, rest, -, -, e⟩ | ⟨q, rest, -, -, e⟩ := seqStep_cases s <;> rw [e]
  · exact advance_outsideTransfer none h
  · exact ⟨h, .refl s⟩
  · have := advance_outsideTransfer (q.answerOf lv) (s := s.record q (.done lv) rest) h
    exact ⟨this.1, SameDatapath.trans (by constructor <;> rfl) this.2⟩
  · exact ⟨.inl rfl, by constructor <;> rfl⟩

/-- OPEN and CLOSE leave the transfer datapath alone, however they end (R34, R130, R132). -/
theorem drive_outsideTransfer (n : Nat) {s : State} (h : s.outsideTransfer) : SameDatapath s (drive n s) :=
  (drive_induction (P := fun t => t.outsideTransfer ∧ SameDatapath s t)
    (fun _ _ k => ⟨(seqStep_outsideTransfer k.1).1, k.2.trans (seqStep_outsideTransfer k.1).2⟩) n s
    ⟨h, .refl s⟩).2

/-- An engine that does not wait, and whose request has no failing reply, has one position less to go. -/
theorem advance_positionsLeft (a : Option Level) (s : State) (h : s.seq ≠ .idle) :
    (s.advance a).positionsLeft + 1 = s.positionsLeft := by
  have hI : s.regI.val < 8 := s.regI.isLt
  cases hs : s.seq with
  | idle => exact absurd hs h
  | opening j => cases j <;> simp [State.advance, State.positionsLeft, hs]
  | closing j => cases j <;> simp [State.advance, State.positionsLeft, hs]
  | csOn =>
    by_cases hn : s.regN = 0#32
    · simp [State.advance, State.positionsLeft, hs, hn]
    · have : s.regN.toNat ≠ 0 := fun e => hn (BitVec.eq_of_toNat_eq (by simpa using e))
      simp [State.advance, State.positionsLeft, hs, hn, BitStep.left]
      omega
  | csOff => simp [State.advance, State.positionsLeft, hs]
  | respond => simp [State.advance, State.positionsLeft, hs]
  | bit x =>
    cases x with
    | acc =>
      simp only [State.advance, hs]
      obtain ⟨hi, h⟩ | ⟨hi, h⟩ := accStep_cases s <;> rw [h]
      · have : (s.regI + 1).val = s.regI.val + 1 := by
          rw [Fin.val_add]; show (s.regI.val + 1) % 8 = _; omega
        simp [State.positionsLeft, hs, BitStep.left, this]
        omega
      · obtain ⟨hk, h'⟩ | ⟨hk, h'⟩ :=
          endByte_cases { s with rxb := accumulate s.bitOrd s.rxb s.regI s.regS } <;> rw [h']
        · simp only at hk
          have hn : s.regN.toNat < 2 ^ 32 := s.regN.isLt
          have : (s.regK + 1).toNat = s.regK.toNat + 1 := by
            rw [BitVec.toNat_add]; show (s.regK.toNat + 1) % 2 ^ 32 = _; omega
          simp [State.positionsLeft, hs, BitStep.left]
          omega
        · simp only at hk
          simp [State.positionsLeft, hs, BitStep.left]
          omega
    | _ => simp [State.advance, State.positionsLeft, hs, BitStep.left]

theorem seqStep_positionsLeft (s : State) (h : s.waiting = false) :
    s.seqStep.positionsLeft < s.positionsLeft := by
  have hi : s.seq ≠ .idle := by intro e; simp [State.waiting, e] at h
  obtain ⟨-, e⟩ | ⟨q, hq, hr, e⟩ | ⟨q, lv, rest, -, -, e⟩ | ⟨q, rest, -, -, e⟩ := seqStep_cases s
  · rw [e]; have := advance_positionsLeft none s hi; omega
  · simp [State.waiting, hq, hr] at h
  · rw [e]
    have h1 := advance_positionsLeft (q.answerOf lv) (s.record q (.done lv) rest) (by simpa using hi)
    have h2 : (s.record q (.done lv) rest).positionsLeft = s.positionsLeft := rfl
    omega
  · have h1 := advance_positionsLeft none s hi
    have h2 : (s.seqStep).positionsLeft = 0 := by rw [e]; rfl
    omega

/-- A run with no bound of its own ends idle or waiting for a reply. -/
theorem drive_enough (n : Nat) (s : State) (h : s.positionsLeft ≤ n) : (drive n s).waiting = true := by
  induction n generalizing s with
  | zero =>
    cases hw : s.waiting with
    | true => simpa using hw
    | false => have := seqStep_positionsLeft s hw; omega
  | succ n ih =>
    cases hw : s.waiting with
    | true => rwa [drive_of_waiting _ hw]
    | false =>
      rw [drive_of_not_waiting _ hw]
      exact ih _ (by have := seqStep_positionsLeft s hw; omega)

end Sys2Proof.Machine
end

