-- ==== Sys2Proof/Laws/Run.lean ====
section
/-! SUPPORT. Running a command to its end, to a failed request, or to the first request without a reply, in terms of the
requests and the result its state still has to come (spec 20_memory R52, R53; 42_transfer R152, R157; 60_exceptions R206). -/

namespace Sys2Proof.Machine

/-! ### The requests still to come -/

/-- The request of a position, as a list of at most one. -/
def State.requestsAt (s : State) (pos : Seq) : List GpioRequest := (s.goto pos).request.toList

/-- The requests of the current bit from a sub-step on. -/
def State.bitTail (s : State) : BitStep → List GpioRequest
  | .acc => []
  | .sampleTrail => s.requestsAt (.bit .sampleTrail)
  | .clkOff => s.requestsAt (.bit .clkOff) ++ s.requestsAt (.bit .sampleTrail)
  | .sampleLead =>
    s.requestsAt (.bit .sampleLead) ++ (s.requestsAt (.bit .clkOff) ++ s.requestsAt (.bit .sampleTrail))
  | .clkOn =>
    s.requestsAt (.bit .clkOn) ++
      (s.requestsAt (.bit .sampleLead) ++ (s.requestsAt (.bit .clkOff) ++ s.requestsAt (.bit .sampleTrail)))
  | .mosi =>
    s.requestsAt (.bit .mosi) ++ (s.requestsAt (.bit .clkOn) ++
      (s.requestsAt (.bit .sampleLead) ++ (s.requestsAt (.bit .clkOff) ++ s.requestsAt (.bit .sampleTrail))))

/-- The requests of bit position i of byte b. -/
def State.bitAll (s : State) (b : Byte) (i : Fin 8) : List GpioRequest := { s with txb := b, regI := i }.bitTail .mosi

/-- The requests of byte b from bit position n on. -/
def State.bitsFrom (s : State) (b : Byte) (n : Nat) : List GpioRequest :=
  ((List.finRange 8).drop n).flatMap (s.bitAll b)

/-- The requests of the bytes from index k on. -/
def State.bytesFrom (s : State) (k : Nat) : List GpioRequest :=
  (List.range' k (s.regN.toNat - k)).flatMap fun k => s.bitsFrom (payloadByte s.cmd (BitVec.ofNat 32 k)) 0

/-- The requests the command in progress still issues if none fails. -/
def State.remaining (s : State) : List GpioRequest :=
  match s.seq with
  | .idle => []
  | .opening .clock =>
    s.requestsAt (.opening .clock) ++ (s.requestsAt (.opening .select) ++
      (s.requestsAt (.opening .mosi) ++ s.requestsAt (.opening .miso)))
  | .opening .select =>
    s.requestsAt (.opening .select) ++ (s.requestsAt (.opening .mosi) ++ s.requestsAt (.opening .miso))
  | .opening .mosi => s.requestsAt (.opening .mosi) ++ s.requestsAt (.opening .miso)
  | .opening .miso => s.requestsAt (.opening .miso)
  | .opening .setOpen => []
  | .closing .first =>
    s.requestsAt (.closing .first) ++ (s.requestsAt (.closing .second) ++
      (s.requestsAt (.closing .third) ++ s.requestsAt (.closing .fourth)))
  | .closing .second =>
    s.requestsAt (.closing .second) ++ (s.requestsAt (.closing .third) ++ s.requestsAt (.closing .fourth))
  | .closing .third => s.requestsAt (.closing .third) ++ s.requestsAt (.closing .fourth)
  | .closing .fourth => s.requestsAt (.closing .fourth)
  | .closing .clearOpen => []
  | .csOn => s.requestsAt .csOn ++ (s.bytesFrom 0 ++ s.requestsAt .csOff)
  | .bit x =>
    s.bitTail x ++ (s.bitsFrom s.txb (s.regI.val + 1) ++ (s.bytesFrom (s.regK.toNat + 1) ++ s.requestsAt .csOff))
  | .csOff => s.requestsAt .csOff
  | .respond => []

theorem goto_self (s : State) : s.goto s.seq = s := rfl

theorem requestsAt_self {s : State} {pos : Seq} (h : s.seq = pos) : s.requestsAt pos = s.request.toList := by
  subst h; rfl

theorem bitsFrom_cons (s : State) (b : Byte) (i : Fin 8) :
    s.bitsFrom b i.val = s.bitAll b i ++ s.bitsFrom b (i.val + 1) := by
  have h : (List.finRange 8).drop i.val = i :: (List.finRange 8).drop (i.val + 1) := by
    revert i; decide
  simp [State.bitsFrom, h]

theorem bytesFrom_cons (s : State) (k : Nat) (h : k < s.regN.toNat) :
    s.bytesFrom k = s.bitsFrom (payloadByte s.cmd (BitVec.ofNat 32 k)) 0 ++ s.bytesFrom (k + 1) := by
  obtain ⟨m, hm⟩ : ∃ m, s.regN.toNat - k = m + 1 := ⟨s.regN.toNat - k - 1, by omega⟩
  have hm' : s.regN.toNat - (k + 1) = m := by omega
  simp [State.bytesFrom, hm, hm', List.range'_succ]

theorem bytesFrom_nil (s : State) (k : Nat) (h : s.regN.toNat ≤ k) : s.bytesFrom k = [] := by
  have : s.regN.toNat - k = 0 := by omega
  simp [State.bytesFrom, this]

theorem remaining_bit {s : State} {x : BitStep} (h : s.seq = .bit x) :
    s.remaining =
      s.bitTail x ++ (s.bitsFrom s.txb (s.regI.val + 1) ++ (s.bytesFrom (s.regK.toNat + 1) ++ s.requestsAt .csOff)) := by
  simp [State.remaining, h]

/-- Starting byte k is standing before all the requests of the bytes from k on. -/
theorem startByte_remaining (s : State) (k : Word) (h : k.toNat < s.regN.toNat) :
    (s.startByte k).remaining = s.bytesFrom k.toNat ++ s.requestsAt .csOff := by
  rw [bytesFrom_cons s _ h]
  have hk : BitVec.ofNat 32 k.toNat = k := by simp
  have h0 := bitsFrom_cons s (payloadByte s.cmd k) 0
  have h1 : (s.startByte k).remaining =
      s.bitAll (payloadByte s.cmd k) 0 ++ (s.bitsFrom (payloadByte s.cmd k) (0 + 1) ++
        (s.bytesFrom (k.toNat + 1) ++ s.requestsAt .csOff)) := rfl
  rw [hk, h1, ← List.append_assoc]
  simp only [Fin.val_zero] at h0
  rw [← h0, List.append_assoc]

/-- Ending a byte leaves the requests of the bytes after it. -/
theorem endByte_remaining (s : State) :
    s.endByte.remaining = s.bytesFrom (s.regK.toNat + 1) ++ s.requestsAt .csOff := by
  obtain ⟨hk, h⟩ | ⟨hk, h⟩ := endByte_cases s <;> rw [h]
  · have hn : s.regN.toNat < 2 ^ 32 := s.regN.isLt
    have e : (s.regK + 1).toNat = s.regK.toNat + 1 := by
      rw [BitVec.toNat_add]; show (s.regK.toNat + 1) % 2 ^ 32 = _; omega
    rw [startByte_remaining _ _ (by rw [e]; exact hk), e]
    rfl
  · rw [bytesFrom_nil s _ (by omega)]
    rfl

/-- Step 6 leaves the bits after this one and the bytes after this byte. -/
theorem accStep_remaining (s : State) :
    s.accStep.remaining =
      s.bitsFrom s.txb (s.regI.val + 1) ++ (s.bytesFrom (s.regK.toNat + 1) ++ s.requestsAt .csOff) := by
  obtain ⟨hi, h⟩ | ⟨hi, h⟩ := accStep_cases s <;> rw [h]
  · have e : (s.regI + 1).val = s.regI.val + 1 := by
      rw [Fin.val_add]; show (s.regI.val + 1) % 8 = _; omega
    have h0 := bitsFrom_cons s s.txb (s.regI + 1)
    rw [e] at h0
    rw [h0, List.append_assoc]
    show _ = _ ++ (s.bitsFrom s.txb (s.regI.val + 1 + 1) ++ _)
    rw [← e]
    rfl
  · have : (List.finRange 8).drop (s.regI.val + 1) = [] := by
      apply List.drop_eq_nil_of_le
      simp; omega
    simp only [State.bitsFrom, this, List.flatMap_nil, List.nil_append]
    exact endByte_remaining { s with rxb := accumulate s.bitOrd s.rxb s.regI s.regS }

/-- A position takes its own request, if it has one, off the requests still to come. -/
theorem remaining_advance (a : Option Level) (s : State) (h : s.seq ≠ .idle) :
    s.remaining = s.request.toList ++ (s.advance a).remaining := by
  cases hs : s.seq with
  | idle => exact absurd hs h
  | opening j =>
    rw [← requestsAt_self hs]
    cases j <;> simp only [State.advance, State.remaining, hs, State.goto_seq, State.respond_seq]
      <;> simp [State.requestsAt, State.goto, State.request]
  | closing j =>
    rw [← requestsAt_self hs]
    cases j <;> simp only [State.advance, State.remaining, hs, State.goto_seq, State.respond_seq]
      <;> simp [State.requestsAt, State.goto, State.request]
  | csOn =>
    rw [← requestsAt_self hs]
    simp only [State.advance, hs]
    simp only [State.remaining, hs]
    by_cases hn : s.regN = 0
    · rw [bytesFrom_nil s 0 (by simp [hn])]
      simp only [hn, if_true]
      rfl
    · have : 0 < s.regN.toNat := by
        rcases Nat.eq_zero_or_pos s.regN.toNat with e | e
        · exact absurd (BitVec.eq_of_toNat_eq (by simpa using e)) hn
        · exact e
      simp only [hn, if_false]
      congr 1
      exact (startByte_remaining s 0 (by simpa using this)).symm
  | bit x =>
    rw [← requestsAt_self hs]
    cases x
    case acc =>
      simp only [State.advance, hs]
      rw [remaining_bit hs, accStep_remaining]
      rfl
    all_goals
      simp only [State.advance, hs]
      rw [remaining_bit hs, remaining_bit (State.goto_seq _ _)]
      simp only [State.bitTail, List.append_assoc]
      rfl
  | csOff =>
    rw [← requestsAt_self hs]
    simp [State.advance, State.remaining, hs]
  | respond => simp [State.advance, State.remaining, State.request, hs]

/-- While requests are still to come a position neither responds nor touches ISOPEN. -/
theorem advance_of_remaining (a : Option Level) (s : State) (h : s.remaining ≠ []) :
    (s.advance a).responses = s.responses ∧ (s.advance a).isOpen = s.isOpen ∧ (s.advance a).cmd = s.cmd := by
  unfold State.advance
  split
  case h_6 hs => exact absurd (by simp [State.remaining, hs]) h
  case h_11 hs => exact absurd (by simp [State.remaining, hs]) h
  case h_20 hs => exact absurd (by simp [State.remaining, hs]) h
  case h_12 => split <;> exact ⟨rfl, rfl, rfl⟩
  case h_18 => simp
  all_goals exact ⟨rfl, rfl, rfl⟩

theorem remaining_idle {s : State} (h : s.seq = .idle) : s.remaining = [] := by simp [State.remaining, h]

theorem not_idle_of_remaining {s : State} {q : GpioRequest} {qs : List GpioRequest} (h : s.remaining = q :: qs) :
    s.seq ≠ .idle := by
  intro e
  simp [remaining_idle e] at h

/-! ### Tapes -/

@[simp] theorem allDone_nil : AllDone [] := by simp [AllDone]

theorem allDone_cons {r : GpioReply} {tape : List GpioReply} (h : AllDone (r :: tape)) :
    (∃ lv, r = .done lv) ∧ AllDone tape := by
  refine ⟨?_, fun x hx => h x (List.mem_cons_of_mem _ hx)⟩
  cases r with
  | done lv => exact ⟨lv, rfl⟩
  | failed => exact absurd rfl (h _ (List.mem_cons_self ..))

@[simp] theorem eventsOf_cons (q : GpioRequest) (qs : List GpioRequest) (r : GpioReply) (tape : List GpioReply) :
    eventsOf (q :: qs) (r :: tape) = q.event r :: eventsOf qs tape := rfl

@[simp] theorem eventsOf_nil (qs : List GpioRequest) : eventsOf qs [] = [] := by simp [eventsOf]

@[simp] theorem eventsOf_nil_left (tape : List GpioReply) : eventsOf [] tape = [] := rfl

/-! ### One position of a run -/

/-- A position that is not a wait has its request, if any, answered: by a completion or by a failure. -/
theorem not_waiting_of_reply {s : State} (h : s.seq ≠ .idle) (hr : s.replies ≠ []) : s.waiting = false := by
  cases hs : s.replies with
  | nil => exact absurd hs hr
  | cons r rest => simp [State.waiting, h, hs]

theorem not_waiting_of_silent {s : State} (h : s.seq ≠ .idle) (hq : s.request = none) : s.waiting = false := by
  simp [State.waiting, h, hq]

theorem seqStep_silent {s : State} (hq : s.request = none) : s.seqStep = s.advance none := by
  simp [State.seqStep, hq]

theorem seqStep_done {s : State} {q : GpioRequest} {lv : Level} {rest : List GpioReply} (hq : s.request = some q)
    (hr : s.replies = .done lv :: rest) :
    s.seqStep = (s.record q (.done lv) rest).advance (q.answerOf lv) := by
  simp [State.seqStep, hq, hr]

theorem seqStep_failed {s : State} {q : GpioRequest} {rest : List GpioReply} (hq : s.request = some q)
    (hr : s.replies = .failed :: rest) : s.seqStep = (s.record q .failed rest).gpioFailed q := by
  simp [State.seqStep, hq, hr]

theorem remaining_silent {s : State} (h : s.seq ≠ .idle) (hq : s.request = none) :
    s.seqStep.remaining = s.remaining := by
  rw [seqStep_silent hq, remaining_advance none s h]
  simp [hq]

theorem remaining_done {s : State} {q : GpioRequest} {lv : Level} {rest : List GpioReply} (h : s.seq ≠ .idle)
    (hq : s.request = some q) (hr : s.replies = .done lv :: rest) :
    s.remaining = q :: s.seqStep.remaining := by
  rw [seqStep_done hq hr]
  have := remaining_advance (q.answerOf lv) (s.record q (.done lv) rest) h
  have hq' : (s.record q (.done lv) rest).request = some q := hq
  rw [hq'] at this
  exact this

/-! ### The three ways a run goes -/

/-- With every remaining request completed, the run ends idle; the trace holds exactly those requests, in order. -/
theorem drive_completes (n : Nat) (s : State) (tape rest : List GpioReply) (hn : s.positionsLeft ≤ n)
    (hr : s.replies = tape ++ rest) (hd : AllDone tape) (hl : tape.length = s.remaining.length) :
    (drive n s).seq = .idle ∧ (drive n s).trace = s.trace ++ eventsOf s.remaining tape ∧
      (drive n s).replies = rest ∧ (drive n s).gpioFault = s.gpioFault := by
  induction n generalizing s tape with
  | zero =>
    have hi : s.seq = .idle := by
      by_contra h
      have := advance_positionsLeft none s h
      omega
    rw [remaining_idle hi] at hl ⊢
    have : tape = [] := List.length_eq_zero_iff.mp (by simpa using hl)
    subst this
    simp [hi, hr]
  | succ n ih =>
    by_cases hi : s.seq = .idle
    · have hw : s.waiting = true := by simp [State.waiting, hi]
      rw [remaining_idle hi] at hl ⊢
      have : tape = [] := List.length_eq_zero_iff.mp (by simpa using hl)
      subst this
      rw [drive_of_waiting _ hw]
      simp [hi, hr]
    cases hq : s.request with
    | none =>
      have hw := not_waiting_of_silent hi hq
      have hp := seqStep_positionsLeft s hw
      rw [drive_of_not_waiting _ hw]
      have hm := remaining_silent hi hq
      have := ih s.seqStep tape (by omega) (by rw [seqStep_silent hq]; simpa using hr) hd (by rw [hm]; exact hl)
      rw [hm] at this
      rw [seqStep_silent hq] at this ⊢
      simpa using this
    | some q =>
      cases tape with
      | nil =>
        have := remaining_advance none s hi
        rw [hq] at this
        rw [this] at hl
        simp at hl
      | cons r tape =>
        obtain ⟨⟨lv, rfl⟩, hd'⟩ := allDone_cons hd
        have hr' : s.replies = .done lv :: (tape ++ rest) := by simpa using hr
        have hw := not_waiting_of_reply hi (by simp [hr'])
        have hp := seqStep_positionsLeft s hw
        rw [drive_of_not_waiting _ hw]
        have hm := remaining_done hi hq hr'
        have := ih s.seqStep tape (by omega) (by rw [seqStep_done hq hr']; simp) hd'
          (by rw [hm] at hl; simpa using hl)
        rw [hm]
        rw [seqStep_done hq hr'] at this ⊢
        simpa using this

/-- With the remaining requests completed up to one that fails, the run ends there with GpioError: nothing after that
request is issued, and ISOPEN is as it was. -/
theorem drive_fails (n : Nat) (s : State) (tape rest : List GpioReply) (q : GpioRequest) (hn : s.positionsLeft ≤ n)
    (hr : s.replies = tape ++ .failed :: rest) (hd : AllDone tape) (hq : s.remaining[tape.length]? = some q) :
    (drive n s).seq = .idle ∧ (drive n s).cmd = none ∧
      (drive n s).trace = s.trace ++ eventsOf s.remaining (tape ++ [.failed]) ∧ (drive n s).replies = rest ∧
      (drive n s).gpioFault = true ∧ (drive n s).isOpen = s.isOpen ∧
      (drive n s).responses = s.responses ++ [[(Status.gpioError q.primitive).word]] := by
  have hne : s.remaining ≠ [] := by intro e; simp [e] at hq
  have hi : s.seq ≠ .idle := fun e => hne (remaining_idle e)
  have hre : s.replies ≠ [] := by rw [hr]; simp
  have hw := not_waiting_of_reply hi hre
  have hp := seqStep_positionsLeft s hw
  induction n generalizing s tape with
  | zero => omega
  | succ n ih =>
    rw [drive_of_not_waiting _ hw]
    cases hs : s.request with
    | none =>
      have hm := remaining_silent hi hs
      have hk := advance_of_remaining none s hne
      have hr1 : s.seqStep.replies = tape ++ .failed :: rest := by rw [seqStep_silent hs]; simpa using hr
      have hne1 : s.seqStep.remaining ≠ [] := by rw [hm]; exact hne
      have hi1 : s.seqStep.seq ≠ .idle := fun e => hne1 (remaining_idle e)
      have hre1 : s.seqStep.replies ≠ [] := by rw [hr1]; simp
      have hw1 := not_waiting_of_reply hi1 hre1
      have := ih s.seqStep tape (by omega) hr1 hd (by rw [hm]; exact hq) hne1 hi1 hre1 hw1
        (seqStep_positionsLeft _ hw1)
      rw [hm] at this
      rw [seqStep_silent hs] at this ⊢
      simpa [hk.1, hk.2.1] using this
    | some p =>
      cases tape with
      | nil =>
        have hr' : s.replies = .failed :: rest := by simpa using hr
        have hpq : p = q := by
          rw [remaining_advance none s hi, hs] at hq
          simpa using hq
        subst hpq
        have hrem : ∃ qs, s.remaining = p :: qs := by
          rw [remaining_advance none s hi, hs]; exact ⟨_, rfl⟩
        obtain ⟨qs, hqs⟩ := hrem
        rw [seqStep_failed hs hr', drive_of_waiting _ (by simp [State.waiting])]
        simp [hqs]
      | cons r tape =>
        obtain ⟨⟨lv, rfl⟩, hd'⟩ := allDone_cons hd
        have hr' : s.replies = .done lv :: (tape ++ .failed :: rest) := by simpa using hr
        have hm := remaining_done hi hs hr'
        have hk := advance_of_remaining (p.answerOf lv) (s.record p (.done lv) (tape ++ .failed :: rest)) hne
        have hr1 : s.seqStep.replies = tape ++ .failed :: rest := by rw [seqStep_done hs hr']; simp
        have hq1 : s.seqStep.remaining[tape.length]? = some q := by rw [hm] at hq; simpa using hq
        have hne1 : s.seqStep.remaining ≠ [] := by intro e; simp [e] at hq1
        have hi1 : s.seqStep.seq ≠ .idle := fun e => hne1 (remaining_idle e)
        have hre1 : s.seqStep.replies ≠ [] := by rw [hr1]; simp
        have hw1 := not_waiting_of_reply hi1 hre1
        have := ih s.seqStep tape (by omega) hr1 hd' hq1 hne1 hi1 hre1 hw1 (seqStep_positionsLeft _ hw1)
        rw [hm]
        rw [seqStep_done hs hr'] at this ⊢
        simpa [hk.1, hk.2.1] using this

/-- With the remaining requests completed up to one that has no reply, the run waits there: that request is the position's,
nothing was answered, and ISOPEN is as it was. -/
theorem drive_waits (n : Nat) (s : State) (q : GpioRequest) (hn : s.positionsLeft ≤ n) (hd : AllDone s.replies)
    (hq : s.remaining[s.replies.length]? = some q) :
    (drive n s).request = some q ∧ (drive n s).replies = [] ∧ (drive n s).cmd = s.cmd ∧
      (drive n s).trace = s.trace ++ eventsOf s.remaining s.replies ∧ (drive n s).gpioFault = s.gpioFault ∧
      (drive n s).isOpen = s.isOpen ∧ (drive n s).responses = s.responses := by
  induction n generalizing s with
  | zero =>
    have hne : s.remaining ≠ [] := by intro e; simp [e] at hq
    have hi : s.seq ≠ .idle := fun e => hne (remaining_idle e)
    have := advance_positionsLeft none s hi
    omega
  | succ n ih =>
    have hne : s.remaining ≠ [] := by intro e; simp [e] at hq
    have hi : s.seq ≠ .idle := fun e => hne (remaining_idle e)
    cases hs : s.request with
    | none =>
      have hw := not_waiting_of_silent hi hs
      have hp := seqStep_positionsLeft s hw
      have hm := remaining_silent hi hs
      have hk := advance_of_remaining none s hne
      have hr1 : s.seqStep.replies = s.replies := by rw [seqStep_silent hs]; simp
      rw [drive_of_not_waiting _ hw]
      have := ih s.seqStep (by omega) (by rw [hr1]; exact hd) (by rw [hm, hr1]; exact hq)
      rw [hm, hr1] at this
      rw [seqStep_silent hs] at this ⊢
      simpa [hk.1, hk.2.1, hk.2.2] using this
    | some p =>
      cases hr : s.replies with
      | nil =>
        have hw : s.waiting = true := by simp [State.waiting, hs, hr]
        have hpq : p = q := by
          rw [remaining_advance none s hi, hs, hr] at hq
          simpa using hq
        subst hpq
        rw [drive_of_waiting _ hw]
        simp [hs, hr]
      | cons r tape =>
        rw [hr] at hd hq
        obtain ⟨⟨lv, rfl⟩, hd'⟩ := allDone_cons hd
        have hw := not_waiting_of_reply hi (by simp [hr])
        have hp := seqStep_positionsLeft s hw
        have hm := remaining_done hi hs hr
        have hk := advance_of_remaining (p.answerOf lv) (s.record p (.done lv) tape) hne
        have hr1 : s.seqStep.replies = tape := by rw [seqStep_done hs hr]; simp
        have hq1 : s.seqStep.remaining[s.seqStep.replies.length]? = some q := by
          rw [hm] at hq; rw [hr1]; simpa using hq
        rw [drive_of_not_waiting _ hw]
        have := ih s.seqStep (by omega) (by rw [hr1]; exact hd') hq1
        rw [hr1] at this
        rw [hm]
        rw [seqStep_done hs hr] at this ⊢
        simpa [hk.1, hk.2.1, hk.2.2] using this

/-! ### Replies that come later -/

/-- The same state with other replies to come. -/
def State.withReplies (rs : List GpioReply) (s : State) : State := { s with replies := rs }

@[simp] theorem State.withReplies_replies (rs : List GpioReply) (s : State) : (s.withReplies rs).replies = rs := rfl
@[simp] theorem State.withReplies_seq (rs : List GpioReply) (s : State) : (s.withReplies rs).seq = s.seq := rfl
@[simp] theorem State.withReplies_pace (rs : List GpioReply) (s : State) : (s.withReplies rs).pace = s.pace := rfl

/-- The position's request does not look at the replies. -/
@[simp] theorem withReplies_request (rs : List GpioReply) (s : State) : (s.withReplies rs).request = s.request := by
  unfold State.request
  rw [State.withReplies_seq]
  rfl

@[simp] theorem withReplies_positionsLeft (rs : List GpioReply) (s : State) :
    (s.withReplies rs).positionsLeft = s.positionsLeft := by
  unfold State.positionsLeft
  rw [State.withReplies_seq]
  rfl

theorem withReplies_endByte (rs : List GpioReply) (s : State) : (s.withReplies rs).endByte = s.endByte.withReplies rs := by
  obtain ⟨h, e⟩ | ⟨h, e⟩ := endByte_cases s <;> obtain ⟨h', e'⟩ | ⟨h', e'⟩ := endByte_cases (s.withReplies rs) <;>
    first | exact absurd h h' | exact absurd h' h | (rw [e, e']; rfl)

theorem withReplies_accStep (rs : List GpioReply) (s : State) : (s.withReplies rs).accStep = s.accStep.withReplies rs := by
  obtain ⟨h, e⟩ | ⟨h, e⟩ := accStep_cases s <;> obtain ⟨h', e'⟩ | ⟨h', e'⟩ := accStep_cases (s.withReplies rs)
  · rw [e, e']; rfl
  · exact absurd h h'
  · exact absurd h' h
  · rw [e, e', ← withReplies_endByte]; rfl

/-- What a position does once its request has completed does not look at the replies. -/
theorem withReplies_advance (a : Option Level) (rs : List GpioReply) (s : State) :
    (s.withReplies rs).advance a = (s.advance a).withReplies rs := by
  have hq := State.withReplies_seq rs s
  cases hs : s.seq with
  | opening j => cases j <;> (simp only [State.advance, hq, hs]; rfl)
  | closing j => cases j <;> (simp only [State.advance, hq, hs]; rfl)
  | csOn =>
    simp only [State.advance, hq, hs]
    show (if s.regN = 0 then _ else _) = _
    split <;> rfl
  | bit x =>
    cases x <;> simp only [State.advance, hq, hs]
    case acc => exact withReplies_accStep rs s
    all_goals rfl
  | _ => simp only [State.advance, hq, hs] <;> rfl

/-- Replies behind the ones a position can see change nothing of what it does, unless it waits. -/
theorem seqStep_more (s : State) (more : List GpioReply) (h : s.waiting = false) :
    (s.withReplies (s.replies ++ more)).seqStep = s.seqStep.withReplies (s.seqStep.replies ++ more) := by
  cases hq : s.request with
  | none =>
    rw [seqStep_silent hq, seqStep_silent (by simpa using hq), withReplies_advance, advance_replies]
  | some q =>
    have hq' : (s.withReplies (s.replies ++ more)).request = some q := by simpa using hq
    cases hr : s.replies with
    | nil => simp [State.waiting, hq, hr] at h
    | cons r rest =>
      rw [hr] at hq'
      cases r with
      | done lv =>
        rw [seqStep_done hq hr, seqStep_done hq' rfl, advance_replies]
        exact withReplies_advance (q.answerOf lv) (rest ++ more) (s.record q (.done lv) rest)
      | failed =>
        rw [seqStep_failed hq hr, seqStep_failed hq' rfl]
        rfl

/-- Any two bounds that are enough run to the same state. -/
theorem drive_bounds (m k : Nat) (s : State) (hm : s.positionsLeft ≤ m) (hk : s.positionsLeft ≤ k) :
    drive m s = drive k s := by
  obtain h | h := Nat.le_total m k
  · obtain ⟨d, rfl⟩ := Nat.exists_eq_add_of_le h
    rw [drive_add, drive_of_waiting d (drive_enough m s hm)]
  · obtain ⟨d, rfl⟩ := Nat.exists_eq_add_of_le h
    rw [drive_add, drive_of_waiting d (drive_enough k s hk)]

/-- A run over replies in two pieces: to the wait on the first, then on from there with the second. -/
theorem drive_more (n : Nat) (s : State) (more : List GpioReply) (hn : s.positionsLeft ≤ n)
    (hi : (drive n s).seq ≠ .idle) :
    drive n (s.withReplies (s.replies ++ more)) = drive (drive n s).positionsLeft ((drive n s).withReplies more) := by
  induction n generalizing s with
  | zero =>
    have := advance_positionsLeft none s hi
    omega
  | succ n ih =>
    cases hw : s.waiting with
    | true =>
      rw [drive_of_waiting _ hw] at hi ⊢
      have hr : s.replies = [] := by
        simp only [State.waiting, hi, decide_false, Bool.false_or, Bool.and_eq_true, List.isEmpty_iff] at hw
        exact hw.2
      rw [hr, List.nil_append]
      exact drive_bounds _ _ _ (by simpa using hn) (by simp)
    | false =>
      have hp := seqStep_positionsLeft s hw
      have hw' : (s.withReplies (s.replies ++ more)).waiting = false := by
        simp only [State.waiting, withReplies_request, State.withReplies_seq, State.withReplies_replies] at hw ⊢
        cases hr : s.replies <;> simp_all
      rw [drive_of_not_waiting _ hw] at hi ⊢
      rw [drive_of_not_waiting _ hw', seqStep_more s more hw]
      exact ih s.seqStep (by omega) hi

/-! ### The requests a command begins with are those its pseudocode lists -/

theorem optionMap_toList {α β : Type} (f : α → β) (o : Option α) : (o.map f).toList = o.toList.map f := by
  cases o <;> rfl

theorem begin_open_remaining (s : State) : (s.begin .openPins (.opening .clock)).remaining = s.openRequests := by
  simp only [State.remaining, State.begin_seq, State.openRequests, State.requestsAt, State.request, State.goto_seq,
    optionMap_toList, List.append_assoc]
  rfl

theorem begin_close_remaining (s : State) : (s.begin .closePins (.closing .first)).remaining = s.closeRequests := by
  simp only [State.remaining, State.begin_seq, State.closeRequests, State.requestsAt, State.request, State.goto_seq,
    CloseOrder.toList]
  have e : ∀ (r : Role) (l : List Role), (r :: l).filterMap s.releaseRequest =
      (s.releaseRequest r).toList ++ l.filterMap s.releaseRequest := by
    intro r l; cases h : s.releaseRequest r <;> simp [h]
  rw [e, e, e, e]
  simp only [List.filterMap_nil, List.append_nil]
  rfl

end Sys2Proof.Machine
end

