-- ==== Sys2Proof/Laws/Result.lean ====
section
/-! SUPPORT. What a command in progress answers if every request completes: its last ISOPEN and its response, followed
position by position (spec 41_open_close R130, R132; 42_transfer R152, R153, R157; 30_encoding R80). -/

namespace Sys2Proof.Machine

/-! ### The bytes still to come -/

/-- Step 6 over these bit positions, each with the next answer where reading, with LOW where not. -/
def gatherByte (ord : BitOrder) (rd : Bool) : List (Fin 8) → Byte → List Level → Byte × List Level
  | [], r, ans => (r, ans)
  | i :: rest, r, ans =>
    if rd then gatherByte ord rd rest (accumulate ord r i (ans.headD .low)) ans.tail
    else gatherByte ord rd rest (accumulate ord r i .low) ans

/-- `n` bytes gathered one after the other, each from 0x00. -/
def gatherBytes (ord : BitOrder) (rd : Bool) : Nat → List Level → List Byte
  | 0, _ => []
  | n + 1, ans =>
    (gatherByte ord rd (List.finRange 8) 0 ans).1 ::
      gatherBytes ord rd n (gatherByte ord rd (List.finRange 8) 0 ans).2

/-- Samples are issued: read enabled and a MISO pin to read. -/
def State.samples (s : State) : Bool := s.rdf && s.misoPin.isSome

/-- The sample of the current bit is still to be issued at this sub-step. -/
def State.sampleToCome (s : State) (x : BitStep) : Bool :=
  s.samples &&
    match x with
    | .mosi => true
    | .clkOn => true
    | .sampleLead => true
    | .clkOff => s.cpha
    | .sampleTrail => s.cpha
    | .acc => false

/-- The rest of the current byte, then the bytes after it, from the answers to come; S as it is where the bit has its
sample. -/
def State.bytesToCome (s : State) (x : BitStep) (ans : List Level) : List Byte :=
  let sample := if s.sampleToCome x then ans.headD .low else s.regS
  let rest := if s.sampleToCome x then ans.tail else ans
  let byte := gatherByte s.bitOrd s.samples ((List.finRange 8).drop (s.regI.val + 1))
    (accumulate s.bitOrd s.rxb s.regI sample) rest
  byte.1 :: gatherBytes s.bitOrd s.samples (s.regN.toNat - (s.regK.toNat + 1)) byte.2

/-- RES at the end of the transfer in progress, from the answers to come. -/
def State.finalRes (s : State) (ans : List Level) : List Byte :=
  match s.seq with
  | .csOn => s.res ++ gatherBytes s.bitOrd s.samples s.regN.toNat ans
  | .bit x => s.res ++ s.bytesToCome x ans
  | _ => s.res

/-- ISOPEN at the end of the command in progress. -/
def State.finalOpen (s : State) : Bool :=
  match s.seq with
  | .opening _ => true
  | .closing _ => false
  | _ => s.isOpen

/-- The responses at the end of the command in progress, from the answers to come. -/
def State.finalResponses (s : State) (ans : List Level) : List Message :=
  match s.seq with
  | .idle => s.responses
  | .opening _ => s.responses ++ [[0]]
  | .closing _ => s.responses ++ [[0]]
  | _ => s.responses ++ [0 :: packBytes (resultBytes s.cmd (s.finalRes ans))]

theorem finalRes_bit {s : State} {x : BitStep} {ans : List Level} (h : s.seq = .bit x) :
    s.finalRes ans = s.res ++ s.bytesToCome x ans := by
  simp [State.finalRes, h]

theorem gatherBytes_succ (ord : BitOrder) (rd : Bool) (n : Nat) (ans : List Level) :
    gatherBytes ord rd (n + 1) ans =
      (gatherByte ord rd (List.finRange 8) 0 ans).1 ::
        gatherBytes ord rd n (gatherByte ord rd (List.finRange 8) 0 ans).2 := rfl

/-- Standing at the start of bit i, its sample still to come, is gathering the bits from i on. -/
theorem startBit_bytesToCome (s : State) (i : Fin 8) (ans : List Level) :
    (s.startBit i).bytesToCome .mosi ans =
      (gatherByte s.bitOrd s.samples ((List.finRange 8).drop i.val) s.rxb ans).1 ::
        gatherBytes s.bitOrd s.samples (s.regN.toNat - (s.regK.toNat + 1))
          (gatherByte s.bitOrd s.samples ((List.finRange 8).drop i.val) s.rxb ans).2 := by
  have h : (List.finRange 8).drop i.val = i :: (List.finRange 8).drop (i.val + 1) := by
    revert i; decide
  have hs : (s.startBit i).samples = s.samples := rfl
  simp only [State.bytesToCome, State.sampleToCome, hs, h, gatherByte]
  cases s.samples <;> simp

/-- Standing at the start of byte k is gathering the bytes from k on. -/
theorem startByte_bytesToCome (s : State) (k : Word) (ans : List Level) (h : k.toNat < s.regN.toNat) :
    (s.startByte k).bytesToCome .mosi ans = gatherBytes s.bitOrd s.samples (s.regN.toNat - k.toNat) ans := by
  obtain ⟨m, hm⟩ : ∃ m, s.regN.toNat - k.toNat = m + 1 := ⟨s.regN.toNat - k.toNat - 1, by omega⟩
  have hm' : s.regN.toNat - (k.toNat + 1) = m := by omega
  have := startBit_bytesToCome { s with regK := k, txb := payloadByte s.cmd k, rxb := 0 } 0 ans
  rw [hm, gatherBytes_succ, ← hm']
  exact this

theorem endByte_finalRes (s : State) (ans : List Level) :
    s.endByte.finalRes ans =
      s.res ++ (s.rxb :: gatherBytes s.bitOrd s.samples (s.regN.toNat - (s.regK.toNat + 1)) ans) := by
  obtain ⟨hk, h⟩ | ⟨hk, h⟩ := endByte_cases s <;> rw [h]
  · have hn : s.regN.toNat < 2 ^ 32 := s.regN.isLt
    have e : (s.regK + 1).toNat = s.regK.toNat + 1 := by
      rw [BitVec.toNat_add]; show (s.regK.toNat + 1) % 2 ^ 32 = _; omega
    have := startByte_bytesToCome { s with res := s.res ++ [s.rxb] } (s.regK + 1) ans (by rw [e]; exact hk)
    simp only [State.finalRes, State.startByte_seq, this, e]
    simp
    rfl
  · have : s.regN.toNat - (s.regK.toNat + 1) = 0 := by omega
    simp [State.finalRes, this, gatherBytes]

theorem accStep_finalRes (s : State) (ans : List Level) :
    s.accStep.finalRes ans = s.res ++ s.bytesToCome .acc ans := by
  have h0 : s.sampleToCome .acc = false := by simp [State.sampleToCome]
  obtain ⟨hi, h⟩ | ⟨hi, h⟩ := accStep_cases s <;> rw [h]
  · have e : (s.regI + 1).val = s.regI.val + 1 := by
      rw [Fin.val_add]; show (s.regI.val + 1) % 8 = _; omega
    have := startBit_bytesToCome { s with rxb := accumulate s.bitOrd s.rxb s.regI s.regS } (s.regI + 1) ans
    rw [finalRes_bit (State.startBit_seq _ _), this, e]
    simp [State.bytesToCome, h0]
    exact ⟨rfl, rfl⟩
  · have : (List.finRange 8).drop (s.regI.val + 1) = [] := by
      apply List.drop_eq_nil_of_le
      simp; omega
    rw [endByte_finalRes]
    simp only [State.bytesToCome, h0, this, gatherByte]
    simp
    rfl

/-- An answer fits a position: it is there exactly when the position's request is a read. -/
def State.AnswerFits (s : State) (a : Option Level) : Prop :=
  a.isSome = true ↔ ∃ p, s.request = some (.read p)

theorem answerFits_silent {s : State} (h : s.request = none) : s.AnswerFits none := by
  simp [State.AnswerFits, h]

theorem answerFits_done {s : State} {q : GpioRequest} (h : s.request = some q) (lv : Level) :
    s.AnswerFits (q.answerOf lv) := by
  cases q <;> simp [State.AnswerFits, h, GpioRequest.answerOf]

theorem advance_finalOpen (a : Option Level) (s : State) : (s.advance a).finalOpen = s.finalOpen := by
  unfold State.advance
  split
  case h_12 hs => split <;> simp [State.finalOpen, hs]
  case h_18 hs =>
    obtain ⟨-, h⟩ | ⟨-, h⟩ := accStep_cases s <;> rw [h]
    · simp [State.finalOpen, hs]
    · obtain ⟨-, h'⟩ | ⟨-, h'⟩ :=
        endByte_cases { s with rxb := accumulate s.bitOrd s.rxb s.regI s.regS } <;> rw [h'] <;>
        simp [State.finalOpen, hs]
  all_goals (rename_i hs; simp [State.finalOpen, hs])

/-- In a transfer a position takes its own answer, if it has one, off the answers to come. -/
theorem advance_finalRes (a : Option Level) (s : State) (ans : List Level) (hf : s.AnswerFits a)
    (ht : (s.seq = .csOn ∨ (∃ x, s.seq = .bit x) ∨ s.seq = .csOff)) :
    (s.advance a).finalRes ans = s.finalRes (a.toList ++ ans) := by
  rcases ht with hs | ⟨x, hs⟩ | hs
  · have ha : a = none := by
      cases a with
      | none => rfl
      | some lv =>
        obtain ⟨p, hp⟩ := hf.mp rfl
        cases hc : s.csPin <;> simp [State.request, hs, hc] at hp
    subst ha
    simp only [State.advance, hs]
    by_cases hn : s.regN = 0
    · simp [State.finalRes, hs, hn, gatherBytes]
    · have hp : 0 < s.regN.toNat := by
        rcases Nat.eq_zero_or_pos s.regN.toNat with e | e
        · exact absurd (BitVec.eq_of_toNat_eq (by simpa using e)) hn
        · exact e
      have := startByte_bytesToCome s 0 ans (by simpa using hp)
      simp only [hn, if_false, State.finalRes, State.startByte_seq, hs, this]
      simp
  · have hr : ∀ p, s.request = some (.read p) →
        (x = .sampleLead ∧ s.samples = true ∧ s.cpha = false) ∨
        (x = .sampleTrail ∧ s.samples = true ∧ s.cpha = true) := by
      intro p hp
      cases x <;> simp [State.request, hs] at hp
      · obtain ⟨h1, h2⟩ := hp; exact .inl ⟨rfl, by simp [State.samples, h1.1, h2], h1.2⟩
      · obtain ⟨h1, h2⟩ := hp; exact .inr ⟨rfl, by simp [State.samples, h1.1, h2], h1.2⟩
    have hr' : (x = .sampleLead ∧ s.samples = true ∧ s.cpha = false) ∨
        (x = .sampleTrail ∧ s.samples = true ∧ s.cpha = true) → ∃ p, s.request = some (.read p) := by
      rintro (⟨rfl, h1, h2⟩ | ⟨rfl, h1, h2⟩) <;> simp only [State.samples, Bool.and_eq_true] at h1 <;>
        obtain ⟨p, hp⟩ := Option.isSome_iff_exists.mp h1.2 <;>
        exact ⟨p, by simp [State.request, hs, h1.1, h2, hp]⟩
    cases a with
    | some lv =>
      obtain ⟨p, hp⟩ := hf.mp rfl
      rcases hr p hp with ⟨rfl, h1, h2⟩ | ⟨rfl, h1, h2⟩
      · have e1 : ((s.sampled (some lv)).goto (.bit .clkOff)).samples = true := h1
        have e2 : ((s.sampled (some lv)).goto (.bit .clkOff)).cpha = false := h2
        simp [State.advance, hs, State.finalRes, State.bytesToCome, State.sampleToCome, h1, e1, e2]
      · have e1 : ((s.sampled (some lv)).goto (.bit .acc)).samples = true := h1
        simp [State.advance, hs, State.finalRes, State.bytesToCome, State.sampleToCome, h1, h2, e1]
    | none =>
      have hno : ¬ ∃ p, s.request = some (.read p) := fun h => by simpa using hf.mpr h
      have hno' : ¬ ((x = .sampleLead ∧ s.samples = true ∧ s.cpha = false) ∨
        (x = .sampleTrail ∧ s.samples = true ∧ s.cpha = true)) := fun h => hno (hr' h)
      have g : ∀ pos, (s.goto pos).samples = s.samples := fun _ => rfl
      have g1 : ∀ pos, ((s.sampled none).goto pos).samples = s.samples := fun _ => rfl
      have g2 : ∀ pos, ((s.sampled none).goto pos).cpha = s.cpha := fun _ => rfl
      cases x
      case acc =>
        simp only [State.advance, hs]
        rw [accStep_finalRes, finalRes_bit hs]
        rfl
      all_goals
        simp [State.advance, hs, State.finalRes, State.bytesToCome, State.sampleToCome, g, g1, g2] at hno' ⊢
        try (cases h1 : s.samples <;> cases h2 : s.cpha <;> simp_all)
  · have ha : a = none := by
      cases a with
      | none => rfl
      | some lv =>
        obtain ⟨p, hp⟩ := hf.mp rfl
        cases hc : s.csPin <;> simp [State.request, hs, hc] at hp
    subst ha
    simp [State.advance, hs, State.finalRes]

theorem advance_finalResponses (a : Option Level) (s : State) (ans : List Level) (hf : s.AnswerFits a) :
    (s.advance a).finalResponses ans = s.finalResponses (a.toList ++ ans) := by
  have ht : (s.seq = .csOn ∨ (∃ x, s.seq = .bit x) ∨ s.seq = .csOff) →
      (s.advance a).finalResponses ans = s.finalResponses (a.toList ++ ans) := by
    intro ht
    have h := advance_finalRes a s ans hf ht
    have hseq : (s.advance a).seq ≠ .idle ∧ (∀ j, (s.advance a).seq ≠ .opening j) ∧
        (∀ j, (s.advance a).seq ≠ .closing j) ∧ (s.advance a).cmd = s.cmd ∧
        (s.advance a).responses = s.responses := by
      rcases ht with hs | ⟨x, hs⟩ | hs
      · simp only [State.advance, hs]; split <;> simp
      · cases x
        case acc =>
          simp only [State.advance, hs]
          obtain ⟨-, h⟩ | ⟨-, h⟩ := accStep_cases s <;> rw [h]
          · simp
          · obtain ⟨-, h'⟩ | ⟨-, h'⟩ :=
              endByte_cases { s with rxb := accumulate s.bitOrd s.rxb s.regI s.regS } <;> rw [h'] <;> simp
        all_goals simp [State.advance, hs]
      · simp [State.advance, hs]
    obtain ⟨h1, h2, h3, h4, h5⟩ := hseq
    have e : ∀ (t : State) (l : List Level), t.seq ≠ .idle → (∀ j, t.seq ≠ .opening j) → (∀ j, t.seq ≠ .closing j) →
        t.finalResponses l = t.responses ++ [0 :: packBytes (resultBytes t.cmd (t.finalRes l))] := by
      intro t l a b c
      unfold State.finalResponses
      split <;> simp_all
    rw [e _ _ h1 h2 h3, e s _, h, h4, h5]
    all_goals rcases ht with hs | ⟨x, hs⟩ | hs <;> simp [hs]
  cases hs : s.seq with
  | csOn => exact ht (.inl hs)
  | bit x => exact ht (.inr (.inl ⟨x, hs⟩))
  | csOff => exact ht (.inr (.inr hs))
  | idle => simp [State.advance, hs, State.finalResponses]
  | opening j => cases j <;> (simp only [State.advance, hs, State.finalResponses]; rfl)
  | closing j => cases j <;> (simp only [State.advance, hs, State.finalResponses]; rfl)
  | respond =>
    simp [State.advance, hs, State.finalResponses, State.finalRes]
    rfl

@[simp] theorem readAnswers_nil : readAnswers [] = [] := rfl

theorem readAnswers_done (q : GpioRequest) (lv : Level) (evs : List GpioEvent) :
    readAnswers (q.event (.done lv) :: evs) = (q.answerOf lv).toList ++ readAnswers evs := by
  cases q <;> rfl

/-- A run whose requests all complete ends with the ISOPEN and the response of its command. -/
theorem drive_outcome (n : Nat) (s : State) (tape rest : List GpioReply) (hn : s.positionsLeft ≤ n)
    (hr : s.replies = tape ++ rest) (hd : AllDone tape) (hl : tape.length = s.remaining.length) :
    (drive n s).isOpen = s.finalOpen ∧
      (drive n s).responses = s.finalResponses (readAnswers (eventsOf s.remaining tape)) ∧
      (s.seq ≠ .idle → (drive n s).cmd = none) := by
  induction n generalizing s tape with
  | zero =>
    have hi : s.seq = .idle := by
      by_contra h
      have := advance_positionsLeft none s h
      omega
    simp [State.finalOpen, State.finalResponses, hi]
  | succ n ih =>
    by_cases hi : s.seq = .idle
    · have hw : s.waiting = true := by simp [State.waiting, hi]
      rw [drive_of_waiting _ hw]
      simp [State.finalOpen, State.finalResponses, hi]
    have hcmd : ∀ (a : Option Level) (t : State), t.seq = s.seq → (t.advance a).seq = .idle → (t.advance a).cmd = none := by
      intro a t ht
      rw [← ht] at hi
      unfold State.advance
      split
      case h_1 hs => exact absurd hs hi
      case h_12 => split <;> simp
      case h_18 hs =>
        obtain ⟨-, h⟩ | ⟨-, h⟩ := accStep_cases t <;> rw [h]
        · simp
        · obtain ⟨-, h'⟩ | ⟨-, h'⟩ :=
            endByte_cases { t with rxb := accumulate t.bitOrd t.rxb t.regI t.regS } <;> rw [h'] <;> simp
      all_goals simp
    have hfin : ∀ u : State, (u.seq = .idle → u.cmd = none) → (u.seq ≠ .idle → (drive n u).cmd = none) →
        (drive n u).cmd = none := by
      intro u h1 h2
      by_cases hu : u.seq = .idle
      · rw [drive_of_waiting _ (by simp [State.waiting, hu])]; exact h1 hu
      · exact h2 hu
    cases hq : s.request with
    | none =>
      have hw := not_waiting_of_silent hi hq
      have hp := seqStep_positionsLeft s hw
      rw [drive_of_not_waiting _ hw]
      have hm := remaining_silent hi hq
      obtain ⟨h1, h2, h3⟩ := ih s.seqStep tape (by omega) (by rw [seqStep_silent hq]; simpa using hr) hd
        (by rw [hm]; exact hl)
      rw [hm] at h2
      refine ⟨?_, ?_, fun _ => hfin _ ?_ h3⟩
      · rw [h1, seqStep_silent hq, advance_finalOpen]
      · rw [h2, seqStep_silent hq, advance_finalResponses none s _ (answerFits_silent hq)]
        simp
      · rw [seqStep_silent hq]; exact hcmd _ _ rfl
    | some q =>
      cases tape with
      | nil =>
        have := remaining_advance none s hi
        rw [hq] at this
        rw [this] at hl
        simp at hl
      | cons r tape =>
        obtain ⟨⟨lv, rfl⟩, hd'⟩ := allDone_cons hd
        have hr' : s.replies = .done lv :: (tape ++ rest) := by simpa using hr
        have hw := not_waiting_of_reply hi (by simp [hr'])
        have hp := seqStep_positionsLeft s hw
        rw [drive_of_not_waiting _ hw]
        have hm := remaining_done hi hq hr'
        obtain ⟨h1, h2, h3⟩ := ih s.seqStep tape (by omega) (by rw [seqStep_done hq hr']; simp) hd'
          (by rw [hm] at hl; simpa using hl)
        refine ⟨?_, ?_, fun _ => hfin _ ?_ h3⟩
        · rw [h1, seqStep_done hq hr', advance_finalOpen]; rfl
        · have hf := answerFits_done (s := s.record q (.done lv) (tape ++ rest)) (q := q) hq lv
          rw [h2, hm, eventsOf_cons, readAnswers_done, seqStep_done hq hr', advance_finalResponses _ _ _ hf]
          rfl
        · rw [seqStep_done hq hr']; exact hcmd _ _ rfl

end Sys2Proof.Machine
end

