-- ==== Sys2Proof/Laws/Transfer.lean ====
section
/-! SUPPORT. The requests and the result a transfer begins with, in terms of what Requests.lean writes from the rules
(spec 42_transfer R152, R153, R157, R160). -/

namespace Sys2Proof.Machine

/-- The requests of one bit are those R157 lists, given the level bit position i drives (R29). -/
theorem bitAll_eq_bitRequests
    (hb : ∀ (ord : BitOrder) (b : Byte) (i : Fin 8), bitLevel ord b i = Level.ofBit (b.getLsbD (bitIndex ord i)))
    (s : State) (b : Byte) (i : Fin 8) : s.bitAll b i = s.bitRequests s.rdf s.wrf b i := by
  have h : s.bitAll b i =
      (if s.wrf then s.mosiPin.map fun p => GpioRequest.write p (bitLevel s.bitOrd b i) else none).toList ++
        ([GpioRequest.write s.clkPin s.trigLevel] ++
          ((if s.rdf && !s.cpha then s.misoPin.map GpioRequest.read else none).toList ++
            ([GpioRequest.write s.clkPin s.idleLevel] ++
              (if s.rdf && s.cpha then s.misoPin.map GpioRequest.read else none).toList))) := rfl
  rw [h, hb]
  simp only [State.bitRequests, apply_ite Option.toList, optionMap_toList, Option.toList_none, List.append_assoc]

/-- Visiting a payload by index is visiting it byte by byte. -/
theorem flatMap_range_payload {data : List Byte} {n : Nat} {f : Nat → Byte} (g : Byte → List GpioRequest)
    (hn : n = data.length) (hf : ∀ k, k < n → f k = data.getD k 0) :
    (List.range' 0 n).flatMap (fun k => g (f k)) = data.flatMap g := by
  have e : (List.range' 0 n).map f = data := by
    apply List.ext_getElem
    · simp [hn]
    · intro k h1 h2
      have hk : k < n := by simpa using h1
      simp [hf k hk, List.getD_eq_getElem?_getD, h2]
  rw [← e, List.flatMap_map]

/-- The requests a transfer begins with are those its pseudocode lists (R152, R157), given the level bit position i
drives (R29). -/
theorem begin_transfer_remaining
    (hb : ∀ (ord : BitOrder) (b : Byte) (i : Fin 8), bitLevel ord b i = Level.ofBit (b.getLsbD (bitIndex ord i)))
    (s : State) (i : Instr) (rd wr : Bool) (n : Word) (hn : n.toNat = (transferPayload i).length)
    (hp : ∀ k : Word, payloadByte (some i) k = (transferPayload i).getD k.toNat 0) :
    (s.beginTransfer i rd wr n).remaining = s.transferRequests rd wr (transferPayload i) := by
  have h : (s.beginTransfer i rd wr n).remaining =
      (s.csPin.map fun p => GpioRequest.write p s.csAct).toList ++
        ((List.range' 0 (n.toNat - 0)).flatMap
            (fun k => (s.beginTransfer i rd wr n).bitsFrom (payloadByte (some i) (BitVec.ofNat 32 k)) 0) ++
          (s.csPin.map fun p => GpioRequest.write p s.csAct.flip).toList) := rfl
  have hbits : ∀ b, (s.beginTransfer i rd wr n).bitsFrom b 0 = s.byteRequests rd wr b := by
    intro b
    simp only [State.bitsFrom, List.drop_zero, State.byteRequests]
    congr 1
    funext j
    rw [bitAll_eq_bitRequests hb]
    rfl
  rw [h, Nat.sub_zero, flatMap_range_payload (f := fun k => payloadByte (some i) (BitVec.ofNat 32 k))
    (fun b => (s.beginTransfer i rd wr n).bitsFrom b 0) hn ?_]
  · simp only [State.transferRequests, optionMap_toList, List.append_assoc]
    congr 3
    funext b
    exact hbits b
  · intro k hk
    have : n.toNat < 2 ^ 32 := n.isLt
    rw [hp]
    congr 1
    rw [BitVec.toNat_ofNat]
    omega

/-- Without a sample every bit stays 0 (R153). -/
theorem gatherByte_silent (ord : BitOrder) (l : List (Fin 8)) (ans : List Level) :
    gatherByte ord false l 0 ans = (0, ans) := by
  induction l with
  | nil => rfl
  | cons i l ih =>
    have : accumulate ord 0 i .low = 0 := by simp [accumulate]
    simp only [gatherByte, this, ih, Bool.false_eq_true, if_false]

theorem gatherBytes_silent (ord : BitOrder) (n : Nat) (ans : List Level) :
    gatherBytes ord false n ans = List.replicate n 0 := by
  induction n with
  | zero => rfl
  | succ n ih => simp only [gatherBytes, gatherByte_silent, ih, List.replicate_succ]

/-- Eight samples into a byte of zeros are the byte R160 describes. -/
theorem gatherByte_sampled (ord : BitOrder) (ans : List Level) :
    gatherByte ord true (List.finRange 8) 0 ans = (sampledByte ord (ans.take 8), ans.drop 8) := by
  have hfin : List.finRange 8 = [0, 1, 2, 3, 4, 5, 6, 7] := by decide
  have key : ∀ a b c d e f g h : Level,
      accumulate ord (accumulate ord (accumulate ord (accumulate ord (accumulate ord (accumulate ord
        (accumulate ord (accumulate ord 0 0 a) 1 b) 2 c) 3 d) 4 e) 5 f) 6 g) 7 h =
      sampledByte ord [a, b, c, d, e, f, g, h] := by
    have k : ∀ a b c d e f g h : Bool,
        accumulate ord (accumulate ord (accumulate ord (accumulate ord (accumulate ord (accumulate ord
          (accumulate ord (accumulate ord 0 0 (.ofBit a)) 1 (.ofBit b)) 2 (.ofBit c)) 3 (.ofBit d)) 4 (.ofBit e)) 5
            (.ofBit f)) 6 (.ofBit g)) 7 (.ofBit h) =
        sampledByte ord [.ofBit a, .ofBit b, .ofBit c, .ofBit d, .ofBit e, .ofBit f, .ofBit g, .ofBit h] := by
      cases ord <;> decide
    have o : ∀ lv : Level, Level.ofBit lv.toBit = lv := by intro lv; cases lv <;> rfl
    intro a b c d e f g h
    have := k a.toBit b.toBit c.toBit d.toBit e.toBit f.toBit g.toBit h.toBit
    simpa only [o] using this
  have pad : ∀ l : List Level, sampledByte ord (l.take 8) = sampledByte ord [l.getD 0 .low, l.getD 1 .low,
      l.getD 2 .low, l.getD 3 .low, l.getD 4 .low, l.getD 5 .low, l.getD 6 .low, l.getD 7 .low] := by
    intro l
    simp [sampledByte, hfin, List.getD_eq_getElem?_getD]
  rw [pad, ← key]
  simp only [gatherByte, hfin, if_true, Prod.mk.injEq]
  rcases ans with _ | ⟨a, _ | ⟨b, _ | ⟨c, _ | ⟨d, _ | ⟨e, _ | ⟨f, _ | ⟨g, _ | ⟨h, l⟩⟩⟩⟩⟩⟩⟩⟩ <;> simp

theorem gatherBytes_sampled (ord : BitOrder) (n : Nat) (ans : List Level) :
    gatherBytes ord true n ans = sampledBytes ord n ans := by
  induction n generalizing ans with
  | zero => rfl
  | succ n ih => simp only [gatherBytes, gatherByte_sampled, ih, sampledBytes]

theorem sampledBytes_silent (ord : BitOrder) (n : Nat) : sampledBytes ord n [] = List.replicate n 0 := by
  induction n with
  | zero => rfl
  | succ n ih =>
    have : sampledByte ord [] = 0 := by cases ord <;> decide
    simp [sampledBytes, ih, this, List.replicate_succ]

end Sys2Proof.Machine
end

