-- ==== Sys2Proof/Tests/Slice0.lean ====
section
/-! SUPPORT. Tests of one step each, their expected values taken from spec/95_test_vectors.md (the vector's id stands at
each), and a witness for the hypotheses of every obligation that has some. -/

namespace Sys2Proof.Tests

open Sys2Proof Sys2Proof.Machine

/-! ### States -/

/-- Closed, after `cfg clk=11, miso=9, mosi=10, cs=8`. -/
def closedEngine : State :=
  { State.reset with configured := true, clkPin := 11, misoPin := some 9, mosiPin := some 10, csPin := some 8 }

/-- The same configuration, Open. -/
def openEngine : State := { closedEngine with isOpen := true }

/-- A state with one message offered and these replies to come. -/
def offered (s : State) (m : Message) (replies : List GpioReply) : State :=
  { s with cmdPort := [m], replies := replies }

/-- The next state of one step, where there is one. -/
def after (s : State) : Option State :=
  match step s with
  | .next t => some t
  | .fault _ => none
  | .refused _ => none

/-- The agent completes `n` requests; reads answer LOW. -/
def completions (n : Nat) : List GpioReply := List.replicate n (.done .low)

/-- The agent completes one request per level; a request that is no read ignores its level. -/
def answering (levels : List Level) : List GpioReply := levels.map .done

theorem allDone_completions (n : Nat) : AllDone (completions n) := by simp [AllDone, completions]

theorem openEngine_ready (rd wr : Bool) : TransferReady openEngine rd wr := ⟨rfl, rfl, fun _ => rfl, fun _ => rfl⟩

/-! ### WellFormed -/

/-- A payload fits exactly when its length does. -/
theorem payloadFits_replicate (n : Nat) : payloadFits (List.replicate n 0) = decide (n < 2 ^ 32) := by
  rw [payloadFits, List.length_replicate]

/-- A payload of 2^32 bytes does not fit the N word: XFER refused. -/
theorem test_wellFormed_refuses_long_xfer (rd wr : Bool) : ¬ WellFormed (.xfer rd wr (List.replicate (2 ^ 32) 0)) := by
  rw [WellFormed, wellFormed, payloadFits_replicate]
  decide

/-- A payload of 2^32 bytes does not fit the N word: WRITE refused. -/
theorem test_wellFormed_refuses_long_write : ¬ WellFormed (.write (List.replicate (2 ^ 32) 0)) := by
  rw [WellFormed, wellFormed, payloadFits_replicate]
  decide

/-- The longest payload that fits. -/
theorem test_wellFormed_accepts_longest : WellFormed (.write (List.replicate (2 ^ 32 - 1) 0)) := by
  rw [WellFormed, wellFormed, payloadFits_replicate]
  decide

/-! ### Decoding: words written out from 30_encoding R71 to R75 -/

/-- T-C11: OP 0x1, bits 8..11 all pins present, bit 12 CSACT = HIGH, bit 13 ORD = MSB. -/
theorem test_decode_cfg :
    decode [0b00000000000000000001111100000001, 11, 9, 10, 8, 2] =
      .ok (.cfg (some 11) (some 9) (some 10) (some 8) .high .msb 2) := by decide

/-- T-C9: only CLKP set; the other pin words are ignored. -/
theorem test_decode_cfg_ignores_absent_pins :
    decode [0b00000000000000000000000100000001, 11, 9, 10, 8, 0] = .ok (.cfg (some 11) none none none .low .msb 0) := by
  decide

theorem test_decode_setmode : decode [0b0010, 0xFFFFFFFF] = .ok (.setMode 0xFFFFFFFF) := by decide

/-- Bit 13 ORD = LSB. -/
theorem test_decode_setorder : decode [0b10000000000011] = .ok (.setOrder .lsb) := by decide

theorem test_decode_open : decode [0b0100] = .ok .openPins := by decide

theorem test_decode_close : decode [0b0101] = .ok .closePins := by decide

/-- Bit 4 RD, bit 5 WR; five bytes in two words, the first byte lowest; T-E17's padding is ignored. -/
theorem test_decode_xfer :
    decode [0b010110, 5, 0x04030201, 0xFFFFFF05] = .ok (.xfer true false [1, 2, 3, 4, 5]) ∧
    decode [0b100110, 1, 0x000000CA] = .ok (.xfer false true [0xCA]) := by decide

theorem test_decode_read : decode [0b0111, 0xFFFFFFFF] = .ok (.read 0xFFFFFFFF) := by decide

theorem test_decode_write : decode [0b1000, 2, 0x000053CA] = .ok (.write [0xCA, 0x53]) := by decide

/-- T-E1 to T-E16: each is rejected by its name. -/
theorem test_decode_rejects :
    decode [0x00000000] = .error .reservedOpcode ∧ decode [0x00000009] = .error .reservedOpcode ∧
    decode [0x0000000F] = .error .reservedOpcode ∧ decode [0x00000014] = .error .reservedBit ∧
    decode [0x00002004] = .error .reservedBit ∧ decode [0x00001003] = .error .reservedBit ∧
    decode [0x00000102, 1] = .error .reservedBit ∧ decode [0x00000002] = .error .wrongLength ∧
    decode [0x00000002, 1, 0] = .error .wrongLength ∧ decode [0x40000004] = .error .reservedBit ∧
    decode [] = .error .emptyMessage ∧ decode [0x00000036, 5, 0x04030201] = .error .wrongLength ∧
    decode [0x00000036, 5, 0x04030201, 5, 0] = .error .wrongLength ∧ decode [0x00000036] = .error .wrongLength ∧
    decode [0x00000007, 1, 0] = .error .wrongLength ∧ decode [0x00000046, 1, 0xCA] = .error .reservedBit := by decide

/-- The opcode table's numbering: word 1 of SETMODE is bits 63..32. -/
theorem test_decodeTableWord : decodeTableWord 64 0x0000000300000002 = some (.setMode 3) := by decide

/-- The first instruction after reset: OPEN is Refused(STATE) (T-E18), `cfg clk=11` configures (L1-2). -/
theorem test_withFetchWord :
    (after (State.reset.withFetchWord 32 0x00000004)).map (·.responses) = some [[0x00000025]] ∧
    (after (State.reset.withFetchWord 192 0x00000000_00000000_00000000_00000000_0000000B_00000101)).map (·.clkPin)
      = some 11 := by decide

/-! ### One step of each command -/

/-- T-C8. -/
theorem test_cfg_writes_every_register :
    let t := after (offered State.reset [0x00000301, 0x7FFFFFFF, 0xFFFFFFFB, 0, 0, 2] [])
    t.map (fun t => (t.responses, t.engstat, t.csAct, t.mode, t.bitOrd)) = some ([[0]], 1, .low, 2, .msb) ∧
    t.map (fun t => (t.clkPin, t.misoPin, t.mosiPin, t.csPin)) = some (0x7FFFFFFF, some 0xFFFFFFFB, none, none) := by
  decide

/-- T-C6: the clock check comes first. -/
theorem test_cfg_checks_clock_first :
    (after (offered State.reset [0x00000001, 0, 0, 0, 0, 4] [])).map (fun t => (t.responses, t.engstat)) =
      some ([[0x00000011]], 0) := by decide

/-- T-M2: the failed setter has cleared ISOPEN. -/
theorem test_setmode_bad_mode_invalidates :
    (after (offered openEngine [0x00000002, 7] [])).map (fun t => (t.responses, t.engstat, t.mode)) =
      some ([[0x00000021]], 1, 0) := by decide

/-- L1-3: `setmode 3`. -/
theorem test_setmode_writes_mode :
    (after (offered openEngine [0x00000002, 3] [])).map (fun t => (t.responses, t.engstat, t.mode)) =
      some ([[0]], 1, 3) := by decide

/-- P4 line 4. -/
theorem test_setorder_writes_order :
    (after (offered openEngine [0x00002003] [])).map (fun t => (t.responses, t.engstat, t.bitOrd)) =
      some ([[0]], 1, .lsb) := by decide

/-- T-B6, MODE 1 under MODE12_SWAP, the CS pin added as in T-O1: the clock idles HIGH. -/
theorem test_open_under_swap :
    (after (offered
        { closedEngine with mode := 1, params := { Params.simulatorDefault with mode12Swap := true } }
        [0x00000004] (completions 4))).map (fun t => (t.responses, t.engstat, t.trace.map (·.req))) =
      some ([[0]], 3, [.cfgOut 11 .high, .cfgOut 8 .high, .cfgOut 10 .low, .cfgIn 9]) := by decide

/-- T-O6: the fourth request fails. -/
theorem test_open_fails_at_miso :
    (after (offered closedEngine [0x00000004] (completions 3 ++ [.failed]))).map (fun t =>
        (t.responses, t.engstat, t.trace.getLast?)) =
      some ([[0x00000024]], 5, some ⟨.cfgIn 9, .failed⟩) := by decide

/-- T-K3. -/
theorem test_close_follows_close_order :
    (after (offered
        { openEngine with
          params := { Params.simulatorDefault with
            closeOrder := { first := .select, second := .clock, third := .mosi, fourth := .miso } } }
        [0x00000005] (completions 4))).map (fun t => (t.responses, t.engstat, t.trace.map (·.req))) =
      some ([[0]], 1, [.release 8, .release 11, .release 10, .release 9]) := by decide

/-- T-K4: the second release fails; ISOPEN is kept. -/
theorem test_close_fails_at_release :
    (after (offered openEngine [0x00000005] [.done .low, .failed])).map (fun t => (t.responses, t.engstat)) =
      some ([[0x00000034]], 7) := by decide

/-- T-R1's stream read by `xfer.r` over one byte, in mode 1 without CS: 0xA5 from HLHLLHLH; the sample follows the
trailing edge (T-B3). -/
theorem test_xfer_reads_after_trailing_edge :
    (after (offered { openEngine with csPin := none, mode := 1 } [0x00000016, 1, 0xFF]
        (answering ([.high, .low, .high, .low, .low, .high, .low, .high].flatMap fun v => [.low, .low, v])))).map (fun t =>
        (t.responses, t.trace.length, t.trace.take 3)) =
      some ([[0, 0xA5]], 24, [⟨.write 11 .high, .done⟩, ⟨.write 11 .low, .done⟩, ⟨.read 9, .answer .high⟩]) := by decide

/-- T-F2: the fourth request of the transfer fails. -/
theorem test_xfer_fails_at_read :
    (after (offered openEngine [0x00000036, 1, 0xCA] (completions 3 ++ [.failed]))).map (fun t =>
        (t.responses, t.engstat, t.trace)) =
      some ([[0x00000054]], 7, [⟨.write 8 .low, .done⟩, ⟨.write 10 .high, .done⟩, ⟨.write 11 .high, .done⟩,
        ⟨.read 9, .failed⟩]) := by decide

/-- L1-5: the stream 1,1,0,0,1,0,1,0 reads 0xCA MSB-first. -/
theorem test_read_stream_msb :
    (after (offered { openEngine with mosiPin := none, csPin := none } [0x00000007, 1]
        (answering ([.high, .high, .low, .low, .high, .low, .high, .low].flatMap fun v => [.low, v, .low])))).map (fun t =>
        (t.responses, t.trace.length)) =
      some ([[0, 0xCA]], 24) := by decide

/-- L1-5: the same stream reads 0x53 LSB-first. -/
theorem test_read_stream_lsb :
    (after (offered { openEngine with mosiPin := none, csPin := none, bitOrd := .lsb } [0x00000007, 1]
        (answering ([.high, .high, .low, .low, .high, .low, .high, .low].flatMap fun v => [.low, v, .low])))).map
        (·.responses) =
      some [[0, 0x53]] := by decide

/-- T-W1's first byte in mode 3, LSB: v = LHLHLLHH, the leading edge is LOW, status only. -/
theorem test_write_lsb_mode3 :
    (after (offered { openEngine with csPin := none, mode := 3, bitOrd := .lsb } [0x00000008, 1, 0xCA]
        (completions 24))).map (fun t => (t.responses, t.trace.map (·.req))) =
      some ([[0]], [.low, .high, .low, .high, .low, .low, .high, .high].flatMap fun v =>
        [.write 10 v, .write 11 .low, .write 11 .high]) := by decide

/-- T-X9: a clock-only engine. -/
theorem test_write_without_mosi :
    (after (offered { openEngine with misoPin := none, mosiPin := none, csPin := none } [0x00000008, 1, 1] [])).map
      (fun t => (t.responses, t.trace)) = some ([[0x00000023]], []) := by decide

/-! ### Witnesses: the hypotheses of each obligation are met -/

/-- In a transfer's first byte, at its first clock edge. -/
def midByte : State :=
  { openEngine with
    seq := .bit .clkOn, cmd := some (.xfer true true [0xCA]), rdf := true, wrf := true, regN := 1, txb := 0xCA }

theorem closedEngine_sound (m : Message) (replies : List GpioReply) : Sound (offered closedEngine m replies) :=
  ⟨fun _ => (by decide : 1 ≤ (11 : PinId).toInt), (fun h => by cases h), fun h => absurd rfl h, rfl,
    (by decide : Params.simulatorDefault.wf)⟩

theorem midByte_sound : Sound midByte :=
  ⟨fun _ => by decide, fun _ => rfl, fun _ => rfl,
    ⟨⟨rfl, ⟨_, rfl, rfl, rfl, rfl⟩, fun _ => rfl, fun _ => rfl, (fun h => by cases h)⟩,
      ⟨by decide, rfl, rfl, (fun h => by cases h)⟩⟩, by decide⟩

theorem witness_DecodeOfEncodeIsTheCommand :
    WellFormed (.cfg (some 11) none (some 10) none .high .lsb 3) ∧ WellFormed (.xfer true true []) ∧
    WellFormed (.write (List.replicate (2 ^ 32 - 1) 0)) := by
  refine ⟨by decide, by decide, test_wellFormed_accepts_longest⟩

theorem witness_DecodedCommandsAreWellFormed : decode [0x00000036, 0] = .ok (.xfer true true []) := by decide

theorem witness_ExactlyTheTableMessagesDecode :
    (∃ i, decode [0x00000036, 1, 0xCA] = .ok i) ∧ ¬ ∃ i, decode [0x00000036, 1] = .ok i :=
  ⟨⟨_, rfl⟩, fun ⟨_, h⟩ => by cases h⟩

/-- An absent pin's word and the padding bytes are anything. -/
theorem witness_DecodingReadsExactlyTheMeaningfulWords :
    decode [0x00000101, 11, 9, 10, 8, 0] = .ok (.cfg (some 11) none none none .low .msb 0) ∧
    OperandsAgree (.cfg (some 11) none none none .low .msb 0) [11, 9, 10, 8, 0] ∧
    decode [0x00000036, 1, 0xFFFFFFCA] = .ok (.xfer true true [0xCA]) ∧
    OperandsAgree (.xfer true true [0xCA]) [1, 0xFFFFFFCA] := by
  refine ⟨by decide, ⟨_, _, _, _, rfl, ?_, ?_, ?_, ?_⟩, by decide, _, _, rfl, rfl, by decide, ?_⟩
  · exact fun _ h => Option.some.inj h
  · exact fun _ h => by cases h
  · exact fun _ h => by cases h
  · exact fun _ h => by cases h
  · intro j hj
    obtain rfl : j = 0 := by simpa using hj
    decide

theorem witness_BytesArePackedLittleEndian : 3 < 4 * payloadWords [(0xCA : Byte)].length := by decide

theorem witness_StepRunsTheDecodedCommand :
    let s := offered openEngine [0x00000036, 1, 0xCA] (completions 34)
    s.resetPin = false ∧ s.seq = .idle ∧ s.cmdPort = [0x00000036, 1, 0xCA] :: [] ∧
      decode [0x00000036, 1, 0xCA] = .ok (.xfer true true [0xCA]) := by decide

theorem witness_RefusedCommandsDoNothing :
    (let s := offered openEngine [0x00000014] []
     s.resetPin = false ∧ s.seq = .idle ∧ s.cmd = none ∧ s.cmdPort = [0x00000014] :: [] ∧
       decode [0x00000014] = .error .reservedBit) ∧
    (State.reset.seq = .idle ∧ State.reset.cmd = none ∧ State.reset.configured = false ∧
      (Instr.read 1).opcode ≠ .cfg) ∧
    (openEngine.seq = .idle ∧ openEngine.cmd = none ∧ openEngine.configured = true) := by decide

theorem witness_IdleEngineWaitsUnchanged :
    openEngine.resetPin = false ∧ openEngine.seq = .idle ∧ openEngine.cmdPort = [] := by decide

theorem witness_BusyEngineAcceptsNoMessage : midByte.resetPin = false ∧ midByte.seq ≠ .idle := by decide

theorem witness_ResetEventAbandonsTheCommand : { midByte with resetPin := true }.resetPin = true := by decide

theorem witness_ModesGivePolarityAndPhase :
    { openEngine with mode := 0 }.mode = 0 ∧ { openEngine with mode := 3 }.mode = 3 ∧
    (let s := { openEngine with mode := 1 }; s.mode = if s.params.mode12Swap then 2 else 1) ∧
    (let s := { openEngine with mode := 2 }; s.mode = if s.params.mode12Swap then 1 else 2) ∧
    (let s := { openEngine with mode := 2, params := { Params.simulatorDefault with mode12Swap := true } }
     s.mode = if s.params.mode12Swap then 2 else 1) ∧
    (let s := { openEngine with mode := 1, params := { Params.simulatorDefault with mode12Swap := true } }
     s.mode = if s.params.mode12Swap then 1 else 2) := by decide

theorem witness_DrivenAndSampledBitAgree : bitIndex .msb 0 < 8 ∧ bitIndex .lsb 7 < 8 := by decide

theorem witness_OneSamplePerBitAfterItsEdge :
    (midByte.rdf = true ∧ midByte.misoPin = some 9 ∧ midByte.cpha = false) ∧
    (let s := { midByte with mode := 1 }; s.rdf = true ∧ s.misoPin = some 9 ∧ s.cpha = true) ∧
    ({ midByte with regI := 6 }.regI.val < 7) ∧
    (let s := { midByte with regI := 7, regN := 2 }; s.regI.val = 7 ∧ s.regK.toNat + 1 < s.regN.toNat) ∧
    (let s := { midByte with regI := 7 }; s.regI.val = 7 ∧ ¬ s.regK.toNat + 1 < s.regN.toNat) := by decide

theorem witness_CfgChecksThenConfigures :
    (openEngine.seq = .idle ∧ openEngine.cmd = none ∧ openEngine.configured = true) ∧
    (State.reset.seq = .idle ∧ State.reset.cmd = none ∧ State.reset.configured = false) ∧
    (∀ p, (some 0 : Option PinId) = some p → p.toInt < 1) ∧
    (1 ≤ (1 : PinId).toInt ∧ 1 ≤ (0x7FFFFFFF : PinId).toInt) ∧
    ((0xFFFFFFFF : Word).toInt < 0 ∧ 3 < (4 : Word).toInt) ∧
    ((0 : Word).toInt = (0 : BitVec 2).toNat ∧ (3 : Word).toInt = (3 : BitVec 2).toNat) := by
  refine ⟨by decide, by decide, fun p h => ?_, by decide, by decide, by decide⟩
  cases h
  decide

theorem witness_CfgDefaultsAreTheSourceDefaults :
    State.reset.configured = false ∧ (1 : Int) ≤ 1 ∧ (1 : Int) ≤ 2 ^ 31 - 1 ∧ (2 ^ 31 - 1 : Int) < 2 ^ 31 := by decide

theorem witness_SetModeClearsOpenAndChecks :
    (State.reset.seq = .idle ∧ State.reset.cmd = none ∧ State.reset.configured = false) ∧
    (openEngine.seq = .idle ∧ openEngine.cmd = none ∧ openEngine.configured = true) ∧
    ((0xFFFFFFFF : Word).toInt < 0 ∧ 3 < (4 : Word).toInt) ∧
    ((0 : Word).toInt = (0 : BitVec 2).toNat ∧ (3 : Word).toInt = (3 : BitVec 2).toNat) := by decide

theorem witness_SetOrderClearsOpenAndWrites :
    (State.reset.seq = .idle ∧ State.reset.cmd = none ∧ State.reset.configured = false) ∧
    (openEngine.seq = .idle ∧ openEngine.cmd = none ∧ openEngine.configured = true) := by decide

theorem witness_SettersForceAReopen :
    openEngine.configured = true ∧ (Instr.setMode 7).opcode = .setMode ∧ (Instr.setOrder .msb).opcode = .setOrder ∧
    (transferEnables (.xfer false false [])).isSome = true ∧ (transferEnables (.read 1)).isSome = true ∧
    (transferEnables (.write [1])).isSome = true := by decide

theorem witness_ConfigurationCommandsFrame :
    (∃ t, exec (.cfg none none none none .low .msb 0) State.reset = .next t) ∧
    (∃ t, exec (.setMode 3) openEngine = .next t) ∧ (∃ t, exec (.setOrder .lsb) openEngine = .next t) ∧
    (Instr.cfg none none none none .low .msb 0).opcode = .cfg ∧ (Instr.setMode 3).opcode = .setMode ∧
    (Instr.setOrder .lsb).opcode = .setOrder :=
  ⟨⟨_, rfl⟩, ⟨_, rfl⟩, ⟨_, rfl⟩, rfl, rfl, rfl⟩

theorem witness_OpenConfiguresPinsAndOpens :
    let s := { closedEngine with replies := completions 5 }
    s.configured = true ∧ s.pace = none ∧ s.replies = completions 4 ++ completions 1 ∧ AllDone (completions 4) ∧
      (completions 4).length = s.openRequests.length :=
  ⟨rfl, rfl, rfl, allDone_completions 4, rfl⟩

/-- A failure at the first and at the last request. -/
theorem witness_OpenStopsAtTheFailedRequest :
    (let s := { closedEngine with replies := [.failed] }
     s.configured = true ∧ s.pace = none ∧ s.replies = [] ++ GpioReply.failed :: [] ∧ AllDone [] ∧
       s.openRequests[0]? = some (.cfgOut 11 .low)) ∧
    (let s := { openEngine with replies := completions 3 ++ [GpioReply.failed] }
     s.configured = true ∧ s.pace = none ∧ s.replies = completions 3 ++ GpioReply.failed :: [] ∧ AllDone (completions 3) ∧
       s.openRequests[3]? = some (.cfgIn 9)) :=
  ⟨⟨rfl, rfl, rfl, by simp [AllDone], rfl⟩, ⟨rfl, rfl, rfl, allDone_completions 3, rfl⟩⟩

theorem witness_CloseReleasesPinsAndCloses :
    let s := { openEngine with replies := completions 4 }
    s.configured = true ∧ s.pace = none ∧ s.replies = completions 4 ++ [] ∧ AllDone (completions 4) ∧
      (completions 4).length = s.closeRequests.length :=
  ⟨rfl, rfl, rfl, allDone_completions 4, rfl⟩

/-- A failure at the last release. -/
theorem witness_CloseStopsAtTheFailedRelease :
    let s := { openEngine with replies := completions 3 ++ [GpioReply.failed] }
    s.configured = true ∧ s.pace = none ∧ s.replies = completions 3 ++ GpioReply.failed :: [] ∧ AllDone (completions 3) ∧
      (completions 3).length < s.closeRequests.length :=
  ⟨rfl, rfl, rfl, allDone_completions 3, by decide⟩

theorem witness_OpenThenCloseReleasesEveryPinOnce :
    let s := { closedEngine with replies := completions 8 }
    s.configured = true ∧ s.params.wf ∧ s.pace = none ∧ s.replies = completions 8 ∧ AllDone (completions 8) ∧
      (completions 8).length = 2 * s.presentPins.length :=
  ⟨rfl, by decide, rfl, rfl, allDone_completions 8, rfl⟩

theorem witness_LifecycleCommandsFrame :
    (∃ t, exec .openPins { closedEngine with replies := completions 4 } = .next t) ∧
    (∃ t, exec .closePins { openEngine with replies := [.failed] } = .next t) :=
  ⟨⟨_, rfl⟩, ⟨_, rfl⟩⟩

theorem witness_TransferPreconditionsInOrder :
    (transferEnables (.read 1) = some (true, false) ∧ closedEngine.configured = true ∧ closedEngine.seq = .idle ∧
      closedEngine.cmd = none ∧ closedEngine.isOpen = false) ∧
    (let s := { openEngine with misoPin := none, mosiPin := none }
     transferEnables (.xfer true true [1]) = some (true, true) ∧ s.configured = true ∧ s.seq = .idle ∧ s.cmd = none ∧
       s.isOpen = true ∧ s.misoPin = none) ∧
    (let s := { openEngine with mosiPin := none }
     transferEnables (.write [1]) = some (false, true) ∧ s.configured = true ∧ s.seq = .idle ∧ s.cmd = none ∧
       s.isOpen = true ∧ (false = true → s.misoPin.isSome = true) ∧ s.mosiPin = none) := by decide

theorem witness_XferCompletesWithTheSampledBytes :
    let s := { openEngine with replies := completions 34 }
    WellFormed (.xfer true true [0xCA]) ∧ TransferReady s true true ∧ s.pace = none ∧
      s.replies = completions 34 ++ [] ∧ AllDone (completions 34) ∧
      (completions 34).length = (s.transferRequests true true [0xCA]).length :=
  ⟨by decide, ⟨rfl, rfl, fun _ => rfl, fun _ => rfl⟩, rfl, rfl, allDone_completions 34, by decide⟩

theorem witness_ReadCompletesWithTheSampledBytes :
    let s := { openEngine with replies := completions 26 }
    TransferReady s true false ∧ s.pace = none ∧ s.replies = completions 26 ++ [] ∧ AllDone (completions 26) ∧
      (completions 26).length = (s.transferRequests true false (List.replicate (1 : Word).toNat 0)).length :=
  ⟨⟨rfl, rfl, fun _ => rfl, fun _ => rfl⟩, rfl, rfl, allDone_completions 26, by decide⟩

theorem witness_WriteCompletesWithStatusOnly :
    let s := { openEngine with replies := completions 26 }
    WellFormed (.write [0xCA]) ∧ TransferReady s false true ∧ s.pace = none ∧ s.replies = completions 26 ++ [] ∧
      AllDone (completions 26) ∧ (completions 26).length = (s.transferRequests false true [0xCA]).length :=
  ⟨by decide, ⟨rfl, rfl, fun _ => rfl, fun _ => rfl⟩, rfl, rfl, allDone_completions 26, by decide⟩

/-- A failure at the first request and at the last, the deassert of client-select. -/
theorem witness_TransferStopsAtTheFailedRequest :
    (let s := { openEngine with replies := [.failed] }
     transferEnables (.read 1) = some (true, false) ∧ WellFormed (.read 1) ∧ TransferReady s true false ∧
       s.pace = none ∧ s.replies = [] ++ GpioReply.failed :: [] ∧ AllDone [] ∧
       (s.transferRequests true false (transferPayload (.read 1)))[0]? = some (.write 8 .low)) ∧
    (let s := { openEngine with replies := completions 25 ++ [GpioReply.failed] }
     transferEnables (.write [1]) = some (false, true) ∧ WellFormed (.write [1]) ∧ TransferReady s false true ∧
       s.pace = none ∧ s.replies = completions 25 ++ GpioReply.failed :: [] ∧ AllDone (completions 25) ∧
       (s.transferRequests false true (transferPayload (.write [1])))[25]? = some (.write 8 .high)) :=
  ⟨⟨rfl, by decide, ⟨rfl, rfl, fun _ => rfl, fun _ => rfl⟩, rfl, rfl, by simp [AllDone], by decide⟩,
    ⟨rfl, by decide, ⟨rfl, rfl, fun _ => rfl, fun _ => rfl⟩, rfl, rfl, allDone_completions 25, by decide⟩⟩

theorem witness_CommandsWaitForTheAgent :
    (closedEngine.configured = true ∧ closedEngine.pace = none ∧ AllDone closedEngine.replies ∧
      closedEngine.openRequests[closedEngine.replies.length]? = some (.cfgOut 11 .low) ∧
      closedEngine.closeRequests[closedEngine.replies.length]? = some (.release 9)) ∧
    (let s := { openEngine with replies := completions 25 }
     transferEnables (.read 1) = some (true, false) ∧ WellFormed (.read 1) ∧ TransferReady s true false ∧
       s.pace = none ∧ AllDone s.replies ∧
       (s.transferRequests true false (transferPayload (.read 1)))[s.replies.length]? = some (.write 8 .high)) :=
  ⟨⟨rfl, rfl, by simp [AllDone, closedEngine, State.reset, State.resetWith], rfl, rfl⟩,
    ⟨rfl, by decide, ⟨rfl, rfl, fun _ => rfl, fun _ => rfl⟩, rfl, allDone_completions 25, by decide⟩⟩

theorem witness_TransferCommandsFrame :
    (∃ t, exec (.xfer true true [1]) openEngine = .next t) ∧ (∃ t, exec (.read 1) openEngine = .next t) ∧
    (∃ t, exec (.write [1]) openEngine = .next t) ∧ (transferEnables (.xfer true true [1])).isSome = true ∧
    (transferEnables (.read 1)).isSome = true ∧ (transferEnables (.write [1])).isSome = true :=
  ⟨⟨_, rfl⟩, ⟨_, rfl⟩, ⟨_, rfl⟩, rfl, rfl, rfl⟩

theorem witness_TransfersKeepTheEngineState :
    (transferEnables (.xfer true true [1])).isSome = true ∧ (transferEnables (.read 1)).isSome = true ∧
    (transferEnables (.write [1])).isSome = true := by decide

theorem witness_TransferEventCounts :
    let s := { openEngine with replies := completions 34 }
    transferEnables (.xfer true true [0xCA]) = some (true, true) ∧ WellFormed (.xfer true true [0xCA]) ∧
      TransferReady s true true ∧ s.pace = none ∧ s.replies = completions 34 ++ [] ∧ AllDone (completions 34) ∧
      (completions 34).length =
        2 * s.csPin.toList.length + 8 * (transferPayload (.xfer true true [0xCA])).length * (2 + true.toNat + true.toNat) :=
  ⟨rfl, by decide, ⟨rfl, rfl, fun _ => rfl, fun _ => rfl⟩, rfl, rfl, allDone_completions 34, by decide⟩

theorem witness_EmptyTransferOnlyTogglesSelect :
    let s := { openEngine with replies := completions 2 }
    transferEnables (.read 0) = some (true, false) ∧ transferPayload (.read 0) = [] ∧ TransferReady s true false ∧
      s.pace = none ∧ s.replies = completions 2 ++ [] ∧ AllDone (completions 2) ∧
      (completions 2).length = 2 * s.csPin.toList.length :=
  ⟨rfl, rfl, ⟨rfl, rfl, fun _ => rfl, fun _ => rfl⟩, rfl, rfl, allDone_completions 2, rfl⟩

theorem witness_ReadDisabledTransferReturnsZeros :
    let s := { openEngine with replies := completions 26 }
    WellFormed (.xfer false true [0xCA]) ∧ TransferReady s false true ∧ s.pace = none ∧
      s.replies = completions 26 ++ [] ∧ AllDone (completions 26) ∧
      (completions 26).length = (s.transferRequests false true [0xCA]).length :=
  ⟨by decide, ⟨rfl, rfl, fun _ => rfl, fun _ => rfl⟩, rfl, rfl, allDone_completions 26, by decide⟩

theorem witness_PayloadHasNoEffectWithoutWrite :
    ([0xCA] : List Byte).length = ([0x53] : List Byte).length ∧ openEngine.mosiPin = some 10 ∧
      (10 : PinId) ≠ openEngine.clkPin ∧ openEngine.misoPin ≠ some 10 ∧ openEngine.csPin ≠ some 10 := by decide

theorem witness_LoopbackReturnsTheBytesDriven :
    let s := { openEngine with replies := loopbackTape 10 .low (openEngine.transferRequests true true [0xCA]) }
    WellFormed (.xfer true true [0xCA]) ∧ TransferReady s true true ∧ s.pace = none ∧ s.mosiPin = some 10 ∧
      10 ≠ s.clkPin ∧ s.replies = loopbackTape 10 .low (s.transferRequests true true [0xCA]) ++ [] :=
  ⟨by decide, ⟨rfl, rfl, fun _ => rfl, fun _ => rfl⟩, rfl, rfl, by decide, by decide⟩

theorem witness_LoopbackOnTheClockPinReturnsItsEdge :
    let s := { openEngine with
      mosiPin := some 11
      replies := loopbackTape 11 .low ({ openEngine with mosiPin := some 11 }.transferRequests true true [0xCA]) }
    WellFormed (.xfer true true [0xCA]) ∧ TransferReady s true true ∧ s.pace = none ∧ s.mosiPin = some s.clkPin ∧
      s.replies = loopbackTape s.clkPin .low (s.transferRequests true true [0xCA]) ++ [] :=
  ⟨by decide, ⟨rfl, rfl, fun _ => rfl, fun _ => rfl⟩, rfl, rfl, by decide⟩

theorem witness_OpenLeavesTheLinesAtRest :
    let s := { closedEngine with replies := completions 4 }
    s.configured = true ∧ s.pace = none ∧ s.presentPins.Nodup ∧ s.replies = completions 4 ++ [] ∧
      AllDone (completions 4) ∧ (completions 4).length = s.openRequests.length ∧ s.csPin = some 8 ∧ s.mosiPin = some 10 :=
  ⟨rfl, rfl, by decide, rfl, allDone_completions 4, rfl, rfl, rfl⟩

theorem witness_TransferLeavesClockIdleAndMosiHeld :
    let s := { openEngine with replies := completions 26 }
    transferEnables (.read 1) = some (true, false) ∧ WellFormed (.read 1) ∧ transferPayload (.read 1) ≠ [] ∧
      TransferReady s true false ∧ s.pace = none ∧ s.presentPins.Nodup ∧ s.replies = completions 26 ++ [] ∧
      AllDone (completions 26) ∧
      (completions 26).length = (s.transferRequests true false (transferPayload (.read 1))).length ∧
      s.csPin = some 8 ∧ s.mosiPin = some 10 :=
  ⟨rfl, by decide, by decide, ⟨rfl, rfl, fun _ => rfl, fun _ => rfl⟩, rfl, by decide, rfl, allDone_completions 26,
    by decide, rfl, rfl⟩

theorem witness_ResetStateIsSound :
    Params.simulatorDefault.wf ∧
    Params.wf { Params.simulatorDefault with
      closeOrder := { first := .select, second := .clock, third := .mosi, fourth := .miso } } := by decide

theorem witness_StepKeepsSoundness :
    Sound midByte ∧ (∃ t, step midByte = .next t) ∧
    Sound (offered closedEngine [0x00000004] (completions 4)) ∧
    (∃ t, step (offered closedEngine [0x00000004] (completions 4)) = .next t) :=
  ⟨midByte_sound, ⟨_, rfl⟩, closedEngine_sound _ _, ⟨_, rfl⟩⟩

theorem witness_EventsFollowTheReplies : { midByte with replies := completions 3 }.resetPin = false := by decide

theorem witness_OnlyConfiguredPinsAreTouched : ∃ t, step { midByte with replies := completions 3 } = .next t := ⟨_, rfl⟩

theorem witness_OpenFlagRisesOnlyAtTheEndOfOpen :
    let s := offered closedEngine [0x00000004] (completions 4)
    Sound s ∧ s.isOpen = false ∧ ∃ t, step s = .next t ∧ t.isOpen = true :=
  ⟨closedEngine_sound _ _, rfl, _, rfl, by decide⟩

theorem witness_ConfigurationIsCreatedOnce :
    let s := offered openEngine [0x00000101, 12, 0, 0, 0, 0] []
    s.resetPin = false ∧ s.configured = true ∧ ∃ t, step s = .next t :=
  ⟨rfl, rfl, _, rfl⟩

theorem witness_OneListedResponsePerCommand :
    (midByte.resetPin = false ∧ midByte.seq ≠ .idle) ∧
    (let s := offered openEngine [] []; s.resetPin = false ∧ s.seq = .idle ∧ s.cmdPort ≠ []) := by decide

theorem witness_StepRunsUntilIdleOrWaiting : midByte.pace = none ∧ midByte.resetPin = false := by decide

/-- A command accepted in the step that waits, and one that waits again. -/
theorem witness_LaterRepliesGiveTheSameState :
    (let s := offered closedEngine [0x00000004] []
     s.pace = none ∧ ∃ t, step { s with replies := completions 2 } = .next t ∧ t.seq ≠ .idle) ∧
    (midByte.pace = none ∧ ∃ t, step { midByte with replies := [] } = .next t ∧ t.seq ≠ .idle) :=
  ⟨⟨rfl, _, rfl, by decide⟩, ⟨rfl, _, rfl, by decide⟩⟩

theorem witness_OnePositionStepsReachTheSameState :
    let s := offered openEngine [0x00000036, 1, 0xCA] (completions 34)
    s.pace = none ∧ s.resetPin = false := by decide

end Sys2Proof.Tests
end

/-! SUPPORT. What one step and one command can do, and what no command touches outside the engine (spec 00_scope R9;
30_encoding R77; 60_exceptions R205, R217; 70_reset_and_hazards R230, R236). -/

namespace Sys2Proof.Machine

/-! ### The cases of a step -/

theorem fetch_offered {s : State} {m : Message} {rest : List Message} (hi : s.seq = .idle) (hp : s.cmdPort = m :: rest) :
    s.fetch = some (m, { s with cmdPort := rest }) := by
  simp [State.fetch, hi, hp]

theorem fetch_busy {s : State} (hi : s.seq ≠ .idle) : s.fetch = none := by
  unfold State.fetch
  split
  case h_1 hs _ => exact absurd hs hi
  case h_2 => rfl

theorem fetch_empty {s : State} (hp : s.cmdPort = []) : s.fetch = none := by
  simp [State.fetch, hp]

theorem step_reset {s : State} (hr : s.resetPin = true) : step s = .next s.applyReset := by
  simp [step, hr]

theorem step_unfetched {s : State} (hr : s.resetPin = false) (hf : s.fetch = none) : step s = .next s.runEngine := by
  simp [step, hr, hf]

theorem step_undecodable {s : State} {m : Message} {rest : List Message} {e : DecodeError} (hr : s.resetPin = false)
    (hi : s.seq = .idle) (hp : s.cmdPort = m :: rest) (hd : decode m = .error e) :
    step s = .next ({ s with cmdPort := rest }.refuse .encoding) := by
  simp [step, hr, fetch_offered hi hp, hd]

theorem step_decoded {s : State} {m : Message} {rest : List Message} {i : Instr} (hr : s.resetPin = false)
    (hi : s.seq = .idle) (hp : s.cmdPort = m :: rest) (hd : decode m = .ok i) :
    step s = exec i { s with cmdPort := rest } := by
  simp [step, hr, fetch_offered hi hp, hd]

/-- A step takes a pending reset, lets the engine run on, refuses the offered message, or runs its command. -/
theorem step_cases (s : State) :
    (s.resetPin = true ∧ step s = .next s.applyReset) ∨
    (s.resetPin = false ∧ (s.seq ≠ .idle ∨ s.cmdPort = []) ∧ step s = .next s.runEngine) ∨
    (∃ m rest e, s.resetPin = false ∧ s.seq = .idle ∧ s.cmdPort = m :: rest ∧ decode m = .error e ∧
      step s = .next ({ s with cmdPort := rest }.refuse .encoding)) ∨
    (∃ m rest i, s.resetPin = false ∧ s.seq = .idle ∧ s.cmdPort = m :: rest ∧ decode m = .ok i ∧
      step s = exec i { s with cmdPort := rest }) := by
  rcases Bool.eq_false_or_eq_true s.resetPin with hr | hr
  · exact .inl ⟨hr, step_reset hr⟩
  · by_cases hi : s.seq = .idle
    · cases hp : s.cmdPort with
      | nil => exact .inr (.inl ⟨hr, .inr rfl, step_unfetched hr (fetch_empty hp)⟩)
      | cons m rest =>
        cases hd : decode m with
        | error e => exact .inr (.inr (.inl ⟨m, rest, e, hr, hi, rfl, hd, step_undecodable hr hi hp hd⟩))
        | ok i => exact .inr (.inr (.inr ⟨m, rest, i, hr, hi, rfl, hd, step_decoded hr hi hp hd⟩))
    · exact .inr (.inl ⟨hr, .inl hi, step_unfetched hr (fetch_busy hi)⟩)

/-! ### The cases of a transfer -/

/-- A transfer is refused in Unconfigured, ends with the error of its first failed check, or runs its body (R150, R151). -/
theorem transfer_cases (i : Instr) (rd wr : Bool) (n : Word) (s : State) :
    (s.configured = false ∧ s.transfer i rd wr n = s.refuse .state) ∨
    (∃ st, s.configured = true ∧ s.xferCheck rd wr = some st ∧ s.transfer i rd wr n = s.raise st) ∨
    (s.configured = true ∧ s.xferCheck rd wr = none ∧
      s.transfer i rd wr n = (s.beginTransfer i rd wr n).runEngine) := by
  cases hc : s.configured with
  | false => exact .inl ⟨rfl, by simp [State.transfer, hc]⟩
  | true =>
    cases hx : s.xferCheck rd wr with
    | some st => exact .inr (.inl ⟨st, rfl, rfl, by simp [State.transfer, hc, hx]⟩)
    | none => exact .inr (.inr ⟨rfl, rfl, by simp [State.transfer, hc, hx]⟩)

/-! ### What no command touches outside the engine -/

theorem SameOutside.trans {s t u : State} (h : SameOutside s t) (k : SameOutside t u) : SameOutside s u :=
  ⟨k.cmdPort.trans h.cmdPort, k.resetPin.trans h.resetPin, k.pace.trans h.pace, k.params.trans h.params⟩

theorem respond_sameOutside (st : Status) (bytes : List Byte) (s : State) : SameOutside s (s.respond st bytes) :=
  ⟨rfl, rfl, rfl, rfl⟩

theorem raise_sameOutside (st : Status) (s : State) : SameOutside s (s.raise st) := respond_sameOutside st [] s

theorem refuse_sameOutside (cause : RefusedCause) (s : State) : SameOutside s (s.refuse cause) := ⟨rfl, rfl, rfl, rfl⟩

theorem runEngine_sameOutside (s : State) : SameOutside s s.runEngine := (runEngine_keeps s).outside

theorem begin_runEngine_sameOutside (i : Instr) (pos : Seq) (s : State) :
    SameOutside s (s.begin i pos).runEngine :=
  SameOutside.trans (t := s.begin i pos) ⟨rfl, rfl, rfl, rfl⟩ (runEngine_sameOutside _)

theorem execCfg_sameOutside (clk miso mosi cs : Option PinId) (csact : Level) (ord : BitOrder) (mode : Word) (s : State) :
    ∃ t, execCfg clk miso mosi cs csact ord mode s = .next t ∧ SameOutside s t := by
  unfold execCfg
  split
  · exact ⟨_, rfl, refuse_sameOutside _ s⟩
  · split
    · exact ⟨_, rfl, raise_sameOutside _ s⟩
    · split
      · exact ⟨_, rfl, raise_sameOutside _ s⟩
      · exact ⟨_, rfl, rfl, rfl, rfl, rfl⟩

theorem execSetMode_sameOutside (mode : Word) (s : State) :
    ∃ t, execSetMode mode s = .next t ∧ SameOutside s t := by
  unfold execSetMode
  split
  · split
    · exact ⟨_, rfl, rfl, rfl, rfl, rfl⟩
    · exact ⟨_, rfl, rfl, rfl, rfl, rfl⟩
  · exact ⟨_, rfl, refuse_sameOutside _ s⟩

theorem execSetOrder_sameOutside (ord : BitOrder) (s : State) :
    ∃ t, execSetOrder ord s = .next t ∧ SameOutside s t := by
  unfold execSetOrder
  split
  · exact ⟨_, rfl, rfl, rfl, rfl, rfl⟩
  · exact ⟨_, rfl, refuse_sameOutside _ s⟩

theorem execOpen_sameOutside (s : State) : ∃ t, execOpen s = .next t ∧ SameOutside s t := by
  unfold execOpen
  split
  · exact ⟨_, rfl, begin_runEngine_sameOutside _ _ s⟩
  · exact ⟨_, rfl, refuse_sameOutside _ s⟩

theorem execClose_sameOutside (s : State) : ∃ t, execClose s = .next t ∧ SameOutside s t := by
  unfold execClose
  split
  · exact ⟨_, rfl, begin_runEngine_sameOutside _ _ s⟩
  · exact ⟨_, rfl, refuse_sameOutside _ s⟩

theorem transfer_sameOutside (i : Instr) (rd wr : Bool) (n : Word) (s : State) :
    SameOutside s (s.transfer i rd wr n) := by
  obtain ⟨-, h⟩ | ⟨st, -, -, h⟩ | ⟨-, -, h⟩ := transfer_cases i rd wr n s <;> rw [h]
  · exact refuse_sameOutside _ s
  · exact raise_sameOutside st s
  · exact SameOutside.trans (t := s.beginTransfer i rd wr n) ⟨rfl, rfl, rfl, rfl⟩ (runEngine_sameOutside _)

/-- Every command answers next and leaves the outside alone, however it ends. -/
theorem exec_sameOutside (i : Instr) (s : State) : ∃ t, exec i s = .next t ∧ SameOutside s t := by
  cases i with
  | cfg clk miso mosi cs csact ord mode => exact execCfg_sameOutside clk miso mosi cs csact ord mode s
  | setMode mode => exact execSetMode_sameOutside mode s
  | setOrder ord => exact execSetOrder_sameOutside ord s
  | openPins => exact execOpen_sameOutside s
  | closePins => exact execClose_sameOutside s
  | xfer rd wr data => exact ⟨_, rfl, transfer_sameOutside _ rd wr _ s⟩
  | read count => exact ⟨_, rfl, transfer_sameOutside _ true false _ s⟩
  | write data => exact ⟨_, rfl, transfer_sameOutside _ false true _ s⟩

/-! ### The parameters and the pace -/

/-- Settles O55: a reset keeps both fields by its definition, and what runs, refuses or executes leaves the outside alone. -/
theorem parametersNeverChange : Obligations.ParametersNeverChange := by
  unfold Obligations.ParametersNeverChange
  intro s
  obtain ⟨-, h⟩ | ⟨-, -, h⟩ | ⟨m, rest, e, -, -, -, -, h⟩ | ⟨m, rest, i, -, -, -, -, h⟩ := step_cases s
  case inl => exact ⟨_, h, s.applyReset_params, s.applyReset_pace⟩
  case inr.inl =>
    have k := runEngine_sameOutside s
    exact ⟨_, h, k.params, k.pace⟩
  case inr.inr.inl =>
    have k := refuse_sameOutside .encoding { s with cmdPort := rest }
    exact ⟨_, h, k.params, k.pace⟩
  case inr.inr.inr =>
    obtain ⟨t, ht, k⟩ := exec_sameOutside i { s with cmdPort := rest }
    exact ⟨t, h.trans ht, k.params, k.pace⟩

end Sys2Proof.Machine

/-! SUPPORT. What a sound state (R42) keeps: every sequencer position, and with it every run of the engine. -/

namespace Sys2Proof.Machine

/-! ### Soundness of a state at rest -/

theorem seqSound_of_ended {s : State} (h : Ended s) : SeqSound s := by
  simp [SeqSound, h.seq, h.cmd]

theorem sound_of_unconfigured {s : State} (hc : s.configured = false) (ho : s.isOpen = false) (he : Ended s)
    (hp : s.params.wf) : Sound s where
  clock h := by simp [hc] at h
  opened h := by simp [ho] at h
  busy h := absurd he.seq h
  position := seqSound_of_ended he
  parameters := hp

/-! ### One position -/

/-- With RDF = 0 no sample step issues its read, so no level comes back (R153). -/
theorem answer_none_of_not_reading {s : State} {x : BitStep} {a : Option Level} (hs : s.seq = .bit x)
    (hf : s.AnswerFits a) (hr : s.rdf = false) : a = none := by
  cases a with
  | none => rfl
  | some lv =>
    obtain ⟨p, hp⟩ := hf.mp rfl
    cases x <;> simp [State.request, hs, hr] at hp

/-- A sample step with its answer keeps what holds inside a byte: with RDF = 0 there is no answer and S stays (R157). -/
theorem InByte.sampled {s : State} {x : BitStep} {a : Option Level} (h : InByte s) (hs : s.seq = .bit x)
    (hf : s.AnswerFits a) : InByte (s.sampled a) where
  index := h.index
  gathered := h.gathered
  driven := h.driven
  silent hr := by
    obtain rfl := answer_none_of_not_reading hs hf hr
    exact h.silent hr

/-- Step 6 keeps RXB 0 with RDF = 0: a LOW sample clears a bit that is clear (R153, R157). -/
theorem InByte.accumulated {s : State} (h : InByte s) :
    InByte { s with rxb := accumulate s.bitOrd s.rxb s.regI s.regS } where
  index := h.index
  gathered := h.gathered
  driven := h.driven
  silent hr := by
    obtain ⟨hS, hx⟩ := h.silent hr
    exact ⟨hS, by simp [accumulate, hS, hx]⟩

/-- The byte that ends joins RES; with RDF = 0 it is one more zero (R152, R153). -/
theorem InTransfer.gather {s : State} (h : InTransfer s) (hb : InByte s) :
    InTransfer { s with res := s.res ++ [s.rxb] } where
  isOpen := h.isOpen
  operands := h.operands
  miso := h.miso
  mosi := h.mosi
  zeros hr b hmem := by
    obtain hmem | hmem := List.mem_append.mp hmem
    · exact h.zeros hr b hmem
    · exact (List.mem_singleton.mp hmem).trans (hb.silent hr).2

theorem startByte_seqSound {s : State} {k : Word} (h : InTransfer s) (hk : k.toNat < s.regN.toNat)
    (hg : s.res.length = k.toNat) : SeqSound (s.startByte k) :=
  ⟨{ h with }, hk, hg, rfl, fun _ => ⟨rfl, rfl⟩⟩

theorem endByte_seqSound {s : State} (h : InTransfer s) (hb : InByte s) : SeqSound s.endByte := by
  have hn : s.regN.toNat < 2 ^ 32 := s.regN.isLt
  have hg : (s.res ++ [s.rxb]).length = s.regK.toNat + 1 := by simp [hb.gathered]
  obtain ⟨hk, e⟩ | ⟨hk, e⟩ := endByte_cases s <;> rw [e]
  · have hs : (s.regK + 1).toNat = s.regK.toNat + 1 := by
      rw [BitVec.toNat_add]; show (s.regK.toNat + 1) % 2 ^ 32 = _; omega
    exact startByte_seqSound (h.gather hb) (hs ▸ hk) (hg.trans hs.symm)
  · have hlt := hb.index
    exact ⟨{ h.gather hb with }, hg.trans (by show _ = s.regN.toNat; omega)⟩

theorem accStep_seqSound {s : State} (h : InTransfer s) (hb : InByte s) : SeqSound s.accStep := by
  have ha := hb.accumulated
  obtain ⟨-, e⟩ | ⟨-, e⟩ := accStep_cases s <;> rw [e]
  · exact ⟨{ h with }, { ha with silent := fun hr => ⟨rfl, (ha.silent hr).2⟩ }⟩
  · exact endByte_seqSound { h with } ha

/-- Moving on from a position reaches a position whose claims hold, if the answer is one its request can have. -/
theorem advance_seqSound {s : State} {a : Option Level} (h : SeqSound s) (hf : s.AnswerFits a) :
    SeqSound (s.advance a) := by
  cases hs : s.seq with
  | idle => simpa only [State.advance, hs] using h
  | opening j =>
    cases j <;> simp only [SeqSound, State.advance, hs] at h ⊢
    case setOpen => rfl
    all_goals exact h
  | closing j =>
    cases j <;> simp only [SeqSound, State.advance, hs] at h ⊢
    case clearOpen => rfl
    all_goals exact h
  | csOn =>
    obtain ⟨ht, hres⟩ : InTransfer s ∧ s.res = [] := by simpa only [SeqSound, hs] using h
    simp only [State.advance, hs]
    split
    case isTrue hn => exact ⟨{ ht with }, by simp [hres, hn]⟩
    case isFalse hn =>
      refine startByte_seqSound ht ?_ (by simp [hres])
      exact Nat.pos_of_ne_zero fun e => hn (BitVec.eq_of_toNat_eq e)
  | bit x =>
    obtain ⟨ht, hb⟩ : InTransfer s ∧ InByte s := by simpa only [SeqSound, hs] using h
    have hb' := hb.sampled hs hf
    cases x <;> simp only [State.advance, hs]
    case acc => exact accStep_seqSound ht hb
    case sampleLead => exact ⟨{ ht with }, { hb' with }⟩
    case sampleTrail => exact ⟨{ ht with }, { hb' with }⟩
    all_goals exact ⟨{ ht with }, { hb with }⟩
  | csOff =>
    obtain ⟨ht, hl⟩ : InTransfer s ∧ s.res.length = s.regN.toNat := by simpa only [SeqSound, hs] using h
    simp only [State.advance, hs]
    exact ⟨{ ht with }, hl⟩
  | respond =>
    simp only [State.advance, hs]
    rfl

theorem record_seqSound {s : State} (q : GpioRequest) (r : GpioReply) (rest : List GpioReply) (h : SeqSound s) :
    SeqSound (s.record q r rest) := by
  cases hs : s.seq <;> simp only [SeqSound, State.record_seq, hs] at h ⊢
  case bit => exact ⟨{ h.1 with }, { h.2 with }⟩
  case csOn | csOff | respond => exact ⟨{ h.1 with }, h.2⟩
  all_goals exact h

theorem seqStep_seqSound {s : State} (h : SeqSound s) : SeqSound s.seqStep := by
  obtain ⟨hq, e⟩ | ⟨q, -, -, e⟩ | ⟨q, lv, rest, hq, -, e⟩ | ⟨q, rest, -, -, e⟩ := seqStep_cases s <;> rw [e]
  · exact advance_seqSound h (answerFits_silent hq)
  · exact h
  · exact advance_seqSound (record_seqSound q _ rest h) (answerFits_done hq lv)
  · exact seqSound_of_ended ⟨rfl, rfl⟩

/-! ### The running engine -/

/-- A running engine is configured, so whatever its positions do to ISOPEN, soundness turns on the position alone. -/
theorem Sound.of_seqKeeps {s t : State} (h : Sound s) (hc : s.configured = true) (k : SeqKeeps s t) (hp : SeqSound t) :
    Sound t where
  clock _ := k.config.clkPin ▸ h.clock hc
  opened _ := k.configured.trans hc
  busy _ := k.configured.trans hc
  position := hp
  parameters := k.outside.params ▸ h.parameters

theorem not_idle_of_not_waiting {s : State} (h : s.waiting = false) : s.seq ≠ .idle := by
  intro e
  simp [State.waiting, e] at h

theorem seqStep_sound {s : State} (hw : s.waiting = false) (h : Sound s) : Sound s.seqStep :=
  h.of_seqKeeps (h.busy (not_idle_of_not_waiting hw)) (seqStep_keeps s) (seqStep_seqSound h.position)

theorem runEngine_sound {s : State} (h : Sound s) : Sound s.runEngine :=
  drive_induction (fun _ => seqStep_sound) _ s h

end Sys2Proof.Machine

/-! SUPPORT. A step outside a reset accepts what is offered and then runs the engine: what the state between the two is, for
every command and for every pace (spec 10_state R33; 30_encoding R74, R77; 60_exceptions R205; log 1). -/

namespace Sys2Proof.Machine

/-! ### What the decoder answers -/

/-- XFER and WRITE take N bytes, and N is a word (R74, R75). -/
theorem payloadFits_payloadOperand {n : Word} {payload : Message} (h : payload.length = payloadWords n.toNat) :
    payloadFits (payloadOperand n payload) = true := by
  simpa [payloadFits, payloadOperand_length h] using n.isLt

theorem decodeOperands_wellFormed {op : Opcode} {w0 : Word} {ops : Message} {i : Instr}
    (h : decodeOperands op w0 ops = .ok i) : WellFormed i := by
  cases op with
  | xfer | write =>
    simp only [decodeOperands] at h
    split at h
    case h_1 =>
      split at h
      case isTrue hl =>
        obtain rfl := Except.ok.inj h
        exact payloadFits_payloadOperand hl
      case isFalse => cases h
    case h_2 => cases h
  | _ =>
    simp only [decodeOperands] at h
    split at h <;> cases h
    rfl

theorem decode_wellFormed {m : Message} {i : Instr} (h : decode m = .ok i) : WellFormed i := by
  unfold decode at h
  split at h
  case h_1 => cases h
  case h_2 =>
    split at h
    case h_1 => cases h
    case h_2 =>
      split at h
      case isTrue => exact decodeOperands_wellFormed h
      case isFalse => cases h

/-! ### The pace -/

/-- The same state in another schedule (log 1). -/
def State.withPace (p : Option Nat) (s : State) : State := { s with pace := p }

theorem withPace_request (p : Option Nat) (s : State) : (s.withPace p).request = s.request := rfl

theorem withPace_waiting (p : Option Nat) (s : State) : (s.withPace p).waiting = s.waiting := by
  unfold State.waiting
  rw [withPace_request]
  rfl

theorem withPace_accStep (p : Option Nat) (s : State) : (s.withPace p).accStep = s.accStep.withPace p := by
  simp only [State.accStep, State.endByte, apply_ite (State.withPace p)]
  rfl

/-- No position looks at the pace. -/
theorem withPace_advance (a : Option Level) (p : Option Nat) (s : State) :
    (s.withPace p).advance a = (s.advance a).withPace p := by
  have hp : (s.withPace p).seq = s.seq := rfl
  cases hs : s.seq with
  | opening j => cases j <;> simp only [State.advance, hp, hs] <;> rfl
  | closing j => cases j <;> simp only [State.advance, hp, hs] <;> rfl
  | bit x =>
    cases x <;> simp only [State.advance, hp, hs]
    case acc => exact withPace_accStep p s
    all_goals rfl
  | csOn =>
    simp only [State.advance, hp, hs, apply_ite (State.withPace p)]
    rfl
  | _ => simp only [State.advance, hp, hs] <;> rfl

theorem withPace_seqStep (p : Option Nat) (s : State) : (s.withPace p).seqStep = s.seqStep.withPace p := by
  obtain ⟨hq, e⟩ | ⟨q, hq, hr, e⟩ | ⟨q, lv, rest, hq, hr, e⟩ | ⟨q, rest, hq, hr, e⟩ := seqStep_cases s <;>
    rw [e] <;> rw [← withPace_request p] at hq
  · rw [seqStep_silent hq, withPace_advance]
  · simp only [State.seqStep, hq]
    rw [show (s.withPace p).replies = [] from hr]
  · rw [seqStep_done hq hr, ← withPace_advance]
    rfl
  · rw [seqStep_failed hq hr]
    rfl

theorem withPace_drive (p : Option Nat) (n : Nat) (s : State) : drive n (s.withPace p) = (drive n s).withPace p := by
  induction n generalizing s with
  | zero => rfl
  | succ n ih =>
    simp only [drive_succ, withPace_waiting, withPace_seqStep, ih, apply_ite (State.withPace p)]

theorem withPace_self {p : Option Nat} {s : State} (h : s.pace = p) : s.withPace p = s := by
  subst h
  rfl

/-! ### A command that answers at once -/

/-- CONFIGURED, the pin registers and CSACT agree: what only CFG in Unconfigured writes (R22 to R26, R100). -/
structure SameWiring (s t : State) : Prop where
  configured : t.configured = s.configured
  clkPin : t.clkPin = s.clkPin
  misoPin : t.misoPin = s.misoPin
  mosiPin : t.mosiPin = s.mosiPin
  csPin : t.csPin = s.csPin
  csAct : t.csAct = s.csAct

theorem SeqKeeps.wiring {s t : State} (h : SeqKeeps s t) : SameWiring s t :=
  { h.config with configured := h.configured }

theorem SameWiring.trans {s t u : State} (h : SameWiring s t) (k : SameWiring t u) : SameWiring s u :=
  ⟨k.configured.trans h.configured, k.clkPin.trans h.clkPin, k.misoPin.trans h.misoPin, k.mosiPin.trans h.mosiPin,
    k.csPin.trans h.csPin, k.csAct.trans h.csAct⟩

/-- What a command that ends without running the engine leaves: ISOPEN does not rise, a configured engine keeps its
wiring, and one it configures has a legal clock pin. -/
structure AnswersAtOnce (s t : State) : Prop where
  ended : Ended t
  outside : SameOutside s t
  opened : t.isOpen = true → s.isOpen = true
  wiring : s.configured = true → SameWiring s t
  clock : s.configured = false → t.configured = true → 1 ≤ t.clkPin.toInt

theorem AnswersAtOnce.of_wiring {s t : State} (he : Ended t) (ho : SameOutside s t)
    (hopen : t.isOpen = true → s.isOpen = true) (hw : SameWiring s t) : AnswersAtOnce s t :=
  ⟨he, ho, hopen, fun _ => hw, fun hc ht => absurd (ht.symm.trans (hw.configured.trans hc)) (by decide)⟩

theorem refuse_answersAtOnce (cause : RefusedCause) (s : State) : AnswersAtOnce s (s.refuse cause) :=
  .of_wiring ⟨rfl, rfl⟩ (refuse_sameOutside cause s) id ⟨rfl, rfl, rfl, rfl, rfl, rfl⟩

theorem raise_answersAtOnce (st : Status) (s : State) : AnswersAtOnce s (s.raise st) :=
  .of_wiring ⟨rfl, rfl⟩ (raise_sameOutside st s) id ⟨rfl, rfl, rfl, rfl, rfl, rfl⟩

/-- SETMODE and SETORDER clear ISOPEN and write at most MODE and BITORD (R102, R105). -/
theorem clearOpen_answersAtOnce (mode : BitVec 2) (ord : BitOrder) (st : Status) (s : State) :
    AnswersAtOnce s ({ s.clearOpen with mode := mode, bitOrd := ord }.respond st []) :=
  .of_wiring ⟨rfl, rfl⟩ ⟨rfl, rfl, rfl, rfl⟩ (fun h => by cases h) ⟨rfl, rfl, rfl, rfl, rfl, rfl⟩

theorem one_le_of_clockOperand {clk : Option PinId} {p : PinId} (h : clockOperand clk = some p) : 1 ≤ p.toInt := by
  cases clk with
  | none => cases h
  | some q =>
    obtain ⟨hq, rfl⟩ : 1 ≤ q.toInt ∧ q = p := by simpa [clockOperand] using h
    exact hq

theorem configure_answersAtOnce {clk : Option PinId} {p : PinId} (miso mosi cs : Option PinId) (csact : Level)
    (mode : BitVec 2) (ord : BitOrder) {s : State} (hc : s.configured = false) (hp : clockOperand clk = some p) :
    AnswersAtOnce s ((s.configure p miso mosi cs csact mode ord).respond .ok []) where
  ended := ⟨rfl, rfl⟩
  outside := ⟨rfl, rfl, rfl, rfl⟩
  opened h := by cases h
  wiring h := by simp [hc] at h
  clock _ _ := one_le_of_clockOperand hp

/-! ### A command that runs the engine -/

/-- Where a command that runs the engine starts from: a configured engine, nothing of it changed but the datapath, the
command in progress at a position whose claims hold. -/
structure Begins (i : Instr) (s u : State) : Prop where
  configured : s.configured = true
  keeps : SeqKeeps s u
  isOpen : u.isOpen = s.isOpen
  responses : u.responses = s.responses
  cmd : u.cmd = some i
  position : WellFormed i → SeqSound u

/-- A command ends at once or begins to run the engine. -/
def Enters (i : Instr) (s u : State) : Prop := AnswersAtOnce s u ∨ Begins i s u

theorem begin_begins {i : Instr} {pos : Seq} {s : State} (hc : s.configured = true) (hp : SeqSound (s.begin i pos)) :
    Begins i s (s.begin i pos) where
  configured := hc
  keeps := by constructor <;> constructor <;> rfl
  isOpen := rfl
  responses := rfl
  cmd := rfl
  position _ := hp

/-- The checks of a transfer give the engine state and the pins its body relies on (R151). -/
theorem transferReady_of_check {s : State} {rd wr : Bool} (hc : s.configured = true)
    (hx : s.xferCheck rd wr = none) : TransferReady s rd wr := by
  unfold State.xferCheck at hx
  split at hx
  case isTrue => cases hx
  case isFalse ho =>
    split at hx
    case isTrue => cases hx
    case isFalse hi =>
      split at hx
      case isTrue => cases hx
      case isFalse hm =>
        exact ⟨hc, by simpa using ho, fun h => by simpa [h, Option.isSome_iff_ne_none] using hi,
          fun h => by simpa [h, Option.isSome_iff_ne_none] using hm⟩

theorem beginTransfer_begins {i : Instr} {rd wr : Bool} {n : Word} {s : State} (h : TransferReady s rd wr)
    (hop : WellFormed i → TransferOperands i rd wr n) : Begins i s (s.beginTransfer i rd wr n) where
  configured := h.configured
  keeps := by constructor <;> constructor <;> rfl
  isOpen := rfl
  responses := rfl
  cmd := rfl
  position hw :=
    ⟨{ isOpen := h.isOpen, operands := ⟨i, rfl, hop hw⟩, miso := h.miso, mosi := h.mosi, zeros := by simp }, rfl⟩

/-! ### Every command -/

theorem runEngine_of_idle {s : State} (h : s.seq = .idle) : s.runEngine = s :=
  drive_of_waiting _ (by simp [State.waiting, h])

/-- A meaning that answers at once enters its answer, from which the idle engine does not run on. -/
theorem enters_of_answers {i : Instr} {s t : State} {f : State → Host.Outcome State Fault Refusal}
    (h : AnswersAtOnce s t) (hf : ∀ p, f (s.withPace p) = .next (t.withPace p)) :
    ∃ u, Enters i s u ∧ ∀ p, f (s.withPace p) = .next (u.withPace p).runEngine :=
  ⟨t, .inl h, fun p => by rw [hf, runEngine_of_idle (show (t.withPace p).seq = .idle from h.ended.seq)]⟩

theorem execCfg_enters (clk miso mosi cs : Option PinId) (csact : Level) (ord : BitOrder) (mode : Word) (s : State) :
    ∃ u, Enters (.cfg clk miso mosi cs csact ord mode) s u ∧
      ∀ p, execCfg clk miso mosi cs csact ord mode (s.withPace p) = .next (u.withPace p).runEngine := by
  by_cases hc : s.configured = true
  · exact enters_of_answers (refuse_answersAtOnce .state s) fun _ => if_pos hc
  · cases hk : clockOperand clk with
    | none =>
      refine enters_of_answers (raise_answersAtOnce (.configurationError .clockPin) s) fun _ => ?_
      simp only [execCfg, hk]
      exact if_neg hc
    | some q =>
      cases hm : modeOperand mode with
      | none =>
        refine enters_of_answers (raise_answersAtOnce (.configurationError .mode) s) fun _ => ?_
        simp only [execCfg, hk, hm]
        exact if_neg hc
      | some md =>
        refine enters_of_answers
          (configure_answersAtOnce miso mosi cs csact md ord (Bool.eq_false_of_not_eq_true hc) hk) fun _ => ?_
        simp only [execCfg, hk, hm]
        exact if_neg hc

theorem execSetMode_enters (mode : Word) (s : State) :
    ∃ u, Enters (.setMode mode) s u ∧ ∀ p, execSetMode mode (s.withPace p) = .next (u.withPace p).runEngine := by
  by_cases hc : s.configured = true
  · cases hm : modeOperand mode with
    | none =>
      refine enters_of_answers (clearOpen_answersAtOnce s.mode s.bitOrd (.configurationError .mode) s) fun _ => ?_
      simp only [execSetMode, hm]
      exact if_pos hc
    | some md =>
      refine enters_of_answers (clearOpen_answersAtOnce md s.bitOrd .ok s) fun _ => ?_
      simp only [execSetMode, hm]
      exact if_pos hc
  · exact enters_of_answers (refuse_answersAtOnce .state s) fun _ => if_neg hc

theorem execSetOrder_enters (ord : BitOrder) (s : State) :
    ∃ u, Enters (.setOrder ord) s u ∧ ∀ p, execSetOrder ord (s.withPace p) = .next (u.withPace p).runEngine := by
  by_cases hc : s.configured = true
  · exact enters_of_answers (clearOpen_answersAtOnce s.mode ord .ok s) fun _ => if_pos hc
  · exact enters_of_answers (refuse_answersAtOnce .state s) fun _ => if_neg hc

theorem execOpen_enters (s : State) :
    ∃ u, Enters .openPins s u ∧ ∀ p, execOpen (s.withPace p) = .next (u.withPace p).runEngine := by
  by_cases hc : s.configured = true
  · exact ⟨_, .inr (begin_begins (pos := .opening .clock) hc rfl), fun _ => if_pos hc⟩
  · exact enters_of_answers (refuse_answersAtOnce .state s) fun _ => if_neg hc

theorem execClose_enters (s : State) :
    ∃ u, Enters .closePins s u ∧ ∀ p, execClose (s.withPace p) = .next (u.withPace p).runEngine := by
  by_cases hc : s.configured = true
  · exact ⟨_, .inr (begin_begins (pos := .closing .first) hc rfl), fun _ => if_pos hc⟩
  · exact enters_of_answers (refuse_answersAtOnce .state s) fun _ => if_neg hc

theorem transfer_enters {i : Instr} {rd wr : Bool} {n : Word} (s : State)
    (hop : WellFormed i → TransferOperands i rd wr n) :
    ∃ u, Enters i s u ∧ ∀ p, (s.withPace p).transfer i rd wr n = (u.withPace p).runEngine := by
  by_cases hc : s.configured = true
  · cases hx : s.xferCheck rd wr with
    | some st =>
      refine ⟨s.raise st, .inl (raise_answersAtOnce st s), fun p => (if_pos hc).trans ?_⟩
      rw [show (s.withPace p).xferCheck rd wr = some st from hx]
      exact (runEngine_of_idle rfl).symm
    | none =>
      refine ⟨s.beginTransfer i rd wr n, .inr (beginTransfer_begins (transferReady_of_check hc hx) hop),
        fun p => (if_pos hc).trans ?_⟩
      rw [show (s.withPace p).xferCheck rd wr = none from hx]
      rfl
  · exact ⟨s.refuse .state, .inl (refuse_answersAtOnce .state s), fun p =>
      (if_neg hc).trans (runEngine_of_idle rfl).symm⟩

theorem next_enters {i : Instr} {s : State} {f : State → State}
    (h : ∃ u, Enters i s u ∧ ∀ p, f (s.withPace p) = (u.withPace p).runEngine) :
    ∃ u, Enters i s u ∧ ∀ p, (.next (f (s.withPace p)) : Host.Outcome State Fault Refusal) =
      .next (u.withPace p).runEngine := by
  obtain ⟨u, hu, he⟩ := h
  exact ⟨u, hu, fun p => congrArg _ (he p)⟩

/-- Every command enters some state, the same for every pace, and the engine runs on from there. -/
theorem exec_enters (i : Instr) (s : State) :
    ∃ u, Enters i s u ∧ ∀ p, exec i (s.withPace p) = .next (u.withPace p).runEngine := by
  cases i with
  | cfg clk miso mosi cs csact ord mode => exact execCfg_enters clk miso mosi cs csact ord mode s
  | setMode mode => exact execSetMode_enters mode s
  | setOrder ord => exact execSetOrder_enters ord s
  | openPins => exact execOpen_enters s
  | closePins => exact execClose_enters s
  | xfer rd wr data => exact next_enters (transfer_enters s fun hw => ⟨rfl, rfl, ofNat_length_toNat hw⟩)
  | read count => exact next_enters (transfer_enters s fun _ => ⟨rfl, rfl, rfl⟩)
  | write data => exact next_enters (transfer_enters s fun hw => ⟨rfl, rfl, ofNat_length_toNat hw⟩)

/-! ### Every step -/

/-- The state in which a step outside a reset lets the engine run: the state itself where no message is accepted,
otherwise what the accepted message's command enters, or its refusal. -/
inductive Accepts (s : State) : State → Prop
  | goesOn (h : s.seq ≠ .idle ∨ s.cmdPort = []) : Accepts s s
  | answers {m : Message} {rest : List Message} {u : State} (hi : s.seq = .idle) (hp : s.cmdPort = m :: rest)
      (h : AnswersAtOnce { s with cmdPort := rest } u) : Accepts s u
  | begins {m : Message} {rest : List Message} {i : Instr} {u : State} (hi : s.seq = .idle)
      (hp : s.cmdPort = m :: rest) (hd : decode m = .ok i) (h : Begins i { s with cmdPort := rest } u) : Accepts s u

/-- A step outside a reset accepts and then runs the engine; what it accepts does not look at the pace. -/
theorem step_accepts {s : State} (hr : s.resetPin = false) :
    ∃ u, Accepts s u ∧ ∀ p, step (s.withPace p) = .next (u.withPace p).runEngine := by
  obtain ⟨h, -⟩ | ⟨-, hw, -⟩ | ⟨m, rest, e, -, hi, hp, hd, -⟩ | ⟨m, rest, i, -, hi, hp, hd, -⟩ := step_cases s
  case inl => exact absurd (hr.symm.trans h) (by decide)
  case inr.inl =>
    refine ⟨s, .goesOn hw, fun p => step_unfetched hr ?_⟩
    obtain hb | he := hw
    · exact fetch_busy hb
    · exact fetch_empty he
  case inr.inr.inl =>
    refine ⟨_, .answers hi hp (refuse_answersAtOnce .encoding { s with cmdPort := rest }), fun p => ?_⟩
    rw [runEngine_of_idle rfl]
    exact step_undecodable (s := s.withPace p) hr hi hp hd
  case inr.inr.inr =>
    obtain ⟨u, hu, he⟩ := exec_enters i { s with cmdPort := rest }
    refine ⟨u, ?_, fun p => (step_decoded (s := s.withPace p) hr hi hp hd).trans (he p)⟩
    obtain h | h := hu
    · exact .answers hi hp h
    · exact .begins hi hp hd h

theorem Accepts.outside {s u : State} (h : Accepts s u) :
    u.resetPin = s.resetPin ∧ u.pace = s.pace ∧ u.params = s.params := by
  cases h with
  | goesOn => exact ⟨rfl, rfl, rfl⟩
  | answers _ _ h => exact ⟨h.outside.resetPin, h.outside.pace, h.outside.params⟩
  | begins _ _ _ h => exact ⟨h.keeps.outside.resetPin, h.keeps.outside.pace, h.keeps.outside.params⟩

/-- The step's own pace: what it answers is a run of the engine from the state it accepts into. -/
theorem step_runs {s : State} (hr : s.resetPin = false) : ∃ u, Accepts s u ∧ step s = .next u.runEngine := by
  obtain ⟨u, hu, h⟩ := step_accepts hr
  refine ⟨u, hu, ?_⟩
  simpa only [withPace_self rfl, withPace_self hu.outside.2.1] using h s.pace

/-- The step that answers `t` was a reset, or a run of the engine from the state the step accepts into. -/
theorem step_next_cases {s t : State} (h : step s = .next t) :
    (s.resetPin = true ∧ t = s.applyReset) ∨ (s.resetPin = false ∧ ∃ u, Accepts s u ∧ t = u.runEngine) := by
  rcases Bool.eq_false_or_eq_true s.resetPin with hr | hr
  · exact .inl ⟨hr, Host.Outcome.next.inj (h.symm.trans (step_reset hr))⟩
  · obtain ⟨u, hu, e⟩ := step_runs hr
    exact .inr ⟨hr, u, hu, Host.Outcome.next.inj (h.symm.trans e)⟩

end Sys2Proof.Machine

/-! SUPPORT. The statements about the state: ENGSTAT and the derived fields, the reset state, and what every step keeps or
reaches (spec 10_state R21 to R42; 20_memory R52; 41_open_close R130; 42_transfer R153). -/

namespace Sys2Proof.Machine

/-! ### Soundness of the reset state and of every step -/

theorem resetWith_sound {p : Params} (hp : p.wf) : Sound (State.resetWith p) :=
  sound_of_unconfigured rfl rfl ⟨rfl, rfl⟩ hp

/-- Settles O47. -/
theorem resetStateIsSound : Obligations.ResetStateIsSound :=
  fun _ hp => resetWith_sound hp

/-- An idle engine is as sound with another message offered. -/
theorem Sound.offering {s : State} (h : Sound s) (hi : s.seq = .idle) (port : List Message) :
    Sound { s with cmdPort := port } where
  clock := h.clock
  opened := h.opened
  busy := h.busy
  position := by simpa only [SeqSound, hi] using h.position
  parameters := h.parameters

/-- A command that answers at once leaves its pins as they were, or has just configured a legal clock pin. -/
theorem AnswersAtOnce.sound {s u : State} (h : AnswersAtOnce s u) (hs : Sound s) : Sound u where
  clock hu := by
    rcases Bool.eq_false_or_eq_true s.configured with hc | hc
    · exact (h.wiring hc).clkPin ▸ hs.clock hc
    · exact h.clock hc hu
  opened hu :=
    have hc := hs.opened (h.opened hu)
    (h.wiring hc).configured.trans hc
  busy hu := absurd h.ended.seq hu
  position := seqSound_of_ended h.ended
  parameters := h.outside.params ▸ hs.parameters

theorem Begins.sound {i : Instr} {s u : State} (h : Begins i s u) (hs : Sound s) (hw : WellFormed i) : Sound u :=
  hs.of_seqKeeps h.configured h.keeps (h.position hw)

theorem Accepts.sound {s u : State} (h : Accepts s u) (hs : Sound s) : Sound u := by
  cases h with
  | goesOn => exact hs
  | answers hi _ h => exact h.sound (hs.offering hi _)
  | begins hi _ hd h => exact h.sound (hs.offering hi _) (decode_wellFormed hd)

/-- Settles O48: a reset gives a sound state; any other step accepts into a sound state, and running the engine keeps it. -/
theorem stepKeepsSoundness : Obligations.StepKeepsSoundness := by
  unfold Obligations.StepKeepsSoundness
  intro s t hs h
  obtain ⟨-, rfl⟩ | ⟨-, u, hu, rfl⟩ := step_next_cases h
  · exact sound_of_unconfigured rfl rfl ⟨rfl, rfl⟩ hs.parameters
  · exact runEngine_sound (hu.sound hs)

/-! ### ISOPEN rises only at the end of OPEN -/

/-- Only OPEN.4 sets ISOPEN (R31, R130). -/
theorem advance_isOpen_of_ne {s : State} {a : Option Level} (hs : s.seq ≠ .opening .setOpen)
    (h : (s.advance a).isOpen = true) : s.isOpen = true := by
  revert h
  unfold State.advance
  split
  case h_6 hso => exact absurd hso hs
  case h_12 => split <;> simp
  all_goals simp

/-- Until a command ends it stays the command in progress, and nothing is answered. -/
theorem advance_inProgress {s : State} {a : Option Level} (h : (s.advance a).seq ≠ .idle) :
    (s.advance a).cmd = s.cmd ∧ (s.advance a).responses = s.responses := by
  revert h
  unfold State.advance
  split
  case h_12 => split <;> simp
  all_goals simp

/-- ISOPEN has not risen, and while a command runs it is still the first one's, without an answer. -/
structure StillClosed (s t : State) : Prop where
  isOpen : t.isOpen = false
  inProgress : t.seq ≠ .idle → t.cmd = s.cmd ∧ t.responses = s.responses

/-- The command in progress was OPEN, and it has ended with OK. -/
structure OpenEnded (s t : State) : Prop where
  cmd : s.cmd = some .openPins
  seq : t.seq = .idle
  responses : t.responses = s.responses ++ [[0x00000000]]

theorem advance_closed {s : State} (a : Option Level) (hp : SeqSound s) (ho : s.isOpen = false) :
    StillClosed s (s.advance a) ∨ OpenEnded s (s.advance a) := by
  by_cases hs : s.seq = .opening .setOpen
  · have hc : s.cmd = some .openPins := by simpa only [SeqSound, hs] using hp
    have e : s.advance a = s.setOpen.respond .ok [] := by simp only [State.advance, hs]
    exact .inr (e ▸ ⟨hc, rfl, rfl⟩)
  · refine .inl ⟨Bool.eq_false_of_not_eq_true fun h => ?_, advance_inProgress⟩
    exact absurd (ho.symm.trans (advance_isOpen_of_ne hs h)) (by decide)

theorem seqStep_closed {s : State} (hp : SeqSound s) (ho : s.isOpen = false) :
    StillClosed s s.seqStep ∨ OpenEnded s s.seqStep := by
  obtain ⟨-, e⟩ | ⟨q, -, -, e⟩ | ⟨q, lv, rest, -, -, e⟩ | ⟨q, rest, -, -, e⟩ := seqStep_cases s <;> rw [e]
  · exact advance_closed none hp ho
  · exact .inl ⟨ho, fun _ => ⟨rfl, rfl⟩⟩
  · obtain h | h := advance_closed (q.answerOf lv) (record_seqSound q _ rest hp) ho
    · exact .inl ⟨h.isOpen, h.inProgress⟩
    · exact .inr ⟨h.cmd, h.seq, h.responses⟩
  · exact .inl ⟨ho, fun h => absurd rfl h⟩

/-- A run that raises ISOPEN ran OPEN to its end. -/
theorem runEngine_opens {s : State} (hp : SeqSound s) (ho : s.isOpen = false) (h : s.runEngine.isOpen = true) :
    OpenEnded s s.runEngine := by
  have hrun : SeqSound s.runEngine ∧ (StillClosed s s.runEngine ∨ OpenEnded s s.runEngine) := by
    refine drive_induction (P := fun t => SeqSound t ∧ (StillClosed s t ∨ OpenEnded s t)) ?_ _ s
      ⟨hp, .inl ⟨ho, fun _ => ⟨rfl, rfl⟩⟩⟩
    rintro t hw ⟨ht, hc | he⟩
    · obtain ⟨hcmd, hresp⟩ := hc.inProgress (not_idle_of_not_waiting hw)
      refine ⟨seqStep_seqSound ht, ?_⟩
      obtain k | k := seqStep_closed ht hc.isOpen
      · exact .inl ⟨k.isOpen, hcmd ▸ hresp ▸ k.inProgress⟩
      · exact .inr ⟨hcmd ▸ k.cmd, k.seq, hresp ▸ k.responses⟩
    · exact absurd he.seq (not_idle_of_not_waiting hw)
  obtain ⟨-, hc | he⟩ := hrun
  · exact absurd (hc.isOpen.symm.trans h) (by decide)
  · exact he

/-- Settles O51: a command that answers at once does not raise ISOPEN, and a run that does ends OPEN. -/
theorem openFlagRisesOnlyAtTheEndOfOpen : Obligations.OpenFlagRisesOnlyAtTheEndOfOpen := by
  unfold Obligations.OpenFlagRisesOnlyAtTheEndOfOpen
  intro s t hs h ho ht
  obtain ⟨-, rfl⟩ | ⟨-, u, hu, rfl⟩ := step_next_cases h
  · cases ht
  · have hp := (hu.sound hs).position
    cases hu with
    | goesOn =>
      have he := runEngine_opens hp ho ht
      exact ⟨he.responses, he.seq, .inl he.cmd⟩
    | answers _ _ k =>
      rw [runEngine_of_idle k.ended.seq] at ht
      exact absurd (ho.symm.trans (k.opened ht)) (by decide)
    | @begins m rest i _ hi hport hd k =>
      have he := runEngine_opens hp (k.isOpen.trans ho) ht
      obtain rfl : i = .openPins := Option.some.inj (k.cmd.symm.trans he.cmd)
      exact ⟨k.responses ▸ he.responses, he.seq, .inr ⟨hi, m, rest, hport, hd⟩⟩

/-! ### Configuration is created once -/

/-- What a step accepts keeps the wiring of a configured engine. -/
theorem Accepts.wiring {s u : State} (h : Accepts s u) (hc : s.configured = true) : SameWiring s u := by
  cases h with
  | goesOn => exact (SeqKeeps.refl s).wiring
  | answers _ _ h => exact { h.wiring hc with }
  | begins _ _ _ h => exact { h.keeps.wiring with }

/-- Settles O52. -/
theorem configurationIsCreatedOnce : Obligations.ConfigurationIsCreatedOnce := by
  unfold Obligations.ConfigurationIsCreatedOnce
  intro s t hr hc h
  obtain ⟨hr', -⟩ | ⟨-, u, hu, rfl⟩ := step_next_cases h
  · exact absurd (hr.symm.trans hr') (by decide)
  · have k := (hu.wiring hc).trans (runEngine_keeps u).wiring
    exact ⟨k.configured.trans hc, k.clkPin, k.misoPin, k.mosiPin, k.csPin, k.csAct⟩

/-! ### The two schedules -/

theorem waiting_iff {s : State} : s.waiting = true ↔ s.seq = .idle ∨ (s.request.isSome = true ∧ s.replies = []) := by
  simp [State.waiting]

theorem runEngine_unbounded {s : State} (h : s.pace = none) : s.runEngine = drive s.positionsLeft s := by
  simp [State.runEngine, h]

/-- Settles O54: in the unbounded schedule the engine runs for as many positions as the command can have. -/
theorem stepRunsUntilIdleOrWaiting : Obligations.StepRunsUntilIdleOrWaiting := by
  unfold Obligations.StepRunsUntilIdleOrWaiting
  intro s hpace hr
  obtain ⟨u, hu, h⟩ := step_runs hr
  refine ⟨_, h, waiting_iff.mp ?_⟩
  rw [runEngine_unbounded (hu.outside.2.1.trans hpace)]
  exact drive_enough _ u le_rfl

theorem core_run_succ {s t : State} (k : Nat) (h : step s = .next t) : core.run (k + 1) s = core.run k t := by
  have hs : core.step s = .next t := h
  simp only [Host.Core.run, hs]

/-- While a command runs, a step of pace 1 is one sequencer position. -/
theorem step_one_position {s : State} (hr : s.resetPin = false) (hw : s.waiting = false) :
    step (s.withPace (some 1)) = .next (s.seqStep.withPace (some 1)) := by
  have hf : (s.withPace (some 1)).fetch = none := fetch_busy (not_idle_of_not_waiting hw)
  rw [step_unfetched (s := s.withPace (some 1)) hr hf]
  show Host.Outcome.next (drive 1 (s.withPace (some 1))) = _
  rw [withPace_drive, drive_of_not_waiting 0 hw, drive_zero]

/-- Any number of positions of a command is run by some number of steps of pace 1. -/
theorem run_one_position_steps (n : Nat) {s : State} (hr : s.resetPin = false) :
    ∃ k, core.run k (s.withPace (some 1)) = .next ((drive n s).withPace (some 1)) := by
  induction n generalizing s with
  | zero => exact ⟨0, rfl⟩
  | succ n ih =>
    cases hw : s.waiting with
    | true => exact ⟨0, by rw [drive_of_waiting _ hw]; rfl⟩
    | false =>
      obtain ⟨k, hk⟩ := ih ((seqStep_keeps s).outside.resetPin.trans hr)
      exact ⟨k + 1, by rw [core_run_succ k (step_one_position hr hw), hk, drive_of_not_waiting n hw]⟩

/-- Settles O57: both schedules accept the same command; the first short step runs its first position, and the later ones
the rest, up to where the unbounded step stops. -/
theorem onePositionStepsReachTheSameState : Obligations.OnePositionStepsReachTheSameState := by
  unfold Obligations.OnePositionStepsReachTheSameState
  intro s hpace hr
  obtain ⟨u, hu, h⟩ := step_accepts hr
  obtain ⟨hreset, hupace, -⟩ := hu.outside
  have hlong : step s = .next (drive u.positionsLeft u) := by
    have hun : u.pace = none := hupace.trans hpace
    simpa only [withPace_self hpace, withPace_self hun, runEngine_unbounded hun] using h none
  have hshort : step (s.withPace (some 1)) = .next ((drive 1 u).withPace (some 1)) :=
    (h (some 1)).trans (congrArg _ (withPace_drive (some 1) 1 u))
  have hrest : (drive 1 u).resetPin = false := (drive_keeps 1 u).outside.resetPin.trans (hreset.trans hr)
  have hsame : drive u.positionsLeft (drive 1 u) = drive u.positionsLeft u := by
    rw [← drive_add]
    exact drive_bounds _ _ u (by omega) le_rfl
  obtain ⟨k, hk⟩ := run_one_position_steps u.positionsLeft hrest
  exact ⟨k + 1, _, hlong, (core_run_succ k hshort).trans (hsame ▸ hk)⟩

/-! ### The reset state, ENGSTAT and the derived fields -/

/-- Settles O11. -/
theorem resetStateIsUnconfiguredAndIdle : Obligations.ResetStateIsUnconfiguredAndIdle :=
  fun p => ⟨rfl, by simp [State.engstat, State.busy, State.resetWith, bitAt_false], rfl, rfl, rfl, rfl, rfl⟩

theorem bitAt_getLsbD {n : Nat} (hn : n < 32) (b : Bool) (j : Nat) :
    (bitAt n b).getLsbD j = (b && decide (j = n)) := by
  cases b with
  | false => simp [bitAt]
  | true =>
    show (BitVec.twoPow 32 n).getLsbD j = _
    simp [BitVec.getLsbD_twoPow, hn, eq_comm]

theorem engstat_getLsbD (s : State) (j : Nat) :
    s.engstat.getLsbD j =
      (s.configured && decide (j = 0) || s.isOpen && decide (j = 1) || s.gpioFault && decide (j = 2) ||
        s.busy && decide (j = 3)) := by
  simp only [State.engstat, BitVec.getLsbD_or]
  rw [bitAt_getLsbD (by omega), bitAt_getLsbD (by omega), bitAt_getLsbD (by omega), bitAt_getLsbD (by omega)]

/-- Settles O14. -/
theorem engstatHoldsTheFourFlags : Obligations.EngstatHoldsTheFourFlags := by
  unfold Obligations.EngstatHoldsTheFourFlags
  intro s
  simp only [engstat_getLsbD]
  refine ⟨by simp, by simp, by simp, by simp, fun j hj => ?_⟩
  simp [show j ≠ 0 by omega, show j ≠ 1 by omega, show j ≠ 2 by omega, show j ≠ 3 by omega]

theorem levels_of_cpol_false {s : State} (h : s.cpol = false) : s.trigLevel = .high ∧ s.idleLevel = .low := by
  simp [State.trigLevel, State.idleLevel, h, Level.flip]

theorem levels_of_cpol_true {s : State} (h : s.cpol = true) : s.trigLevel = .low ∧ s.idleLevel = .high := by
  simp [State.trigLevel, State.idleLevel, h, Level.flip]

/-- Settles O15: CPOL and CPHA are the two bits of MODE, exchanged under MODE12_SWAP; TRIG and IDLE follow from CPOL. -/
theorem modesGivePolarityAndPhase : Obligations.ModesGivePolarityAndPhase := by
  unfold Obligations.ModesGivePolarityAndPhase
  intro s
  have hpol : s.cpol = if s.params.mode12Swap then s.mode.getLsbD 0 else s.mode.getLsbD 1 := rfl
  have hpha : s.cpha = if s.params.mode12Swap then s.mode.getLsbD 1 else s.mode.getLsbD 0 := rfl
  refine ⟨fun h => ?_, fun h => ?_, fun h => ?_, fun h => ?_⟩
  · have hc : s.cpol = false := by simp [hpol, h]
    exact ⟨hc, by simp [hpha, h], levels_of_cpol_false hc⟩
  · have hc : s.cpol = true := by rw [hpol, h]; split <;> rfl
    exact ⟨hc, by rw [hpha, h]; split <;> rfl, levels_of_cpol_true hc⟩
  · have hc : s.cpol = false := by rw [hpol, h]; split <;> rfl
    exact ⟨hc, by rw [hpha, h]; split <;> rfl, levels_of_cpol_false hc⟩
  · have hc : s.cpol = true := by rw [hpol, h]; split <;> rfl
    exact ⟨hc, by rw [hpha, h]; split <;> rfl, levels_of_cpol_true hc⟩

end Sys2Proof.Machine

/-! SUPPORT. The statements about the command messages' bytes and the GPIO port: packing, what happens before a command's
first request, and one reply and one event for every request (spec 20_memory R51 to R53, R58, R62, R65). -/

namespace Sys2Proof.Machine

/-! ### Packing (R58, R80) -/

/-- Reading padded bytes is reading the bytes with 0 past their end. -/
theorem getD_of_padded {data : List Byte} {pad j : Nat} {b : Byte}
    (h : (data ++ List.replicate pad 0)[j]? = some b) : data.getD j 0 = b := by
  rcases Nat.lt_or_ge j data.length with hj | hj
  · rw [List.getElem?_append_left hj] at h
    rw [List.getD_eq_getElem?_getD, h, Option.getD_some]
  · rw [List.getElem?_append_right hj, List.getElem?_eq_some_iff] at h
    obtain ⟨hp, rfl⟩ := h
    rw [List.getElem_replicate, List.getD_eq_default _ _ hj]

/-- Settles O6: unpacking the packed words gives the bytes and their padding back, each from its place in its word. -/
theorem bytesArePackedLittleEndian : Obligations.BytesArePackedLittleEndian := by
  unfold Obligations.BytesArePackedLittleEndian
  refine fun data => ⟨packBytes_length data, fun j hj => ?_⟩
  obtain ⟨pad, hpad⟩ := unpackWords_packBytes data
  have hbyte := unpackWords_getElem? (packBytes data) j (packBytes_length data ▸ hj)
  exact (getD_of_padded (hpad ▸ hbyte)).symm

/-! ### Before a command's first request -/

/-- From `s` to `u` no request was issued: what the agent answers and what it was asked are as they were, and an engine
that runs has the pins it had. -/
structure NoRequestYet (s u : State) : Prop where
  replies : u.replies = s.replies
  trace : u.trace = s.trace
  gpioFault : u.gpioFault = s.gpioFault
  resetPin : u.resetPin = s.resetPin
  pace : u.pace = s.pace
  pins : u.seq ≠ .idle → u.presentPins = s.presentPins

theorem NoRequestYet.of_idle {s u : State} (hi : u.seq = .idle) (hr : u.replies = s.replies) (ht : u.trace = s.trace)
    (hf : u.gpioFault = s.gpioFault) (hp : u.resetPin = s.resetPin) (hc : u.pace = s.pace) : NoRequestYet s u :=
  ⟨hr, ht, hf, hp, hc, fun h => absurd hi h⟩

theorem NoRequestYet.refl (s : State) : NoRequestYet s s := ⟨rfl, rfl, rfl, rfl, rfl, fun _ => rfl⟩

theorem raise_noRequestYet (st : Status) (s : State) : NoRequestYet s (s.raise st) :=
  .of_idle rfl rfl rfl rfl rfl rfl

theorem refuse_noRequestYet (cause : RefusedCause) (s : State) : NoRequestYet s (s.refuse cause) :=
  .of_idle rfl rfl rfl rfl rfl rfl

theorem clearOpen_noRequestYet (mode : BitVec 2) (ord : BitOrder) (st : Status) (s : State) :
    NoRequestYet s ({ s.clearOpen with mode := mode, bitOrd := ord }.respond st []) :=
  .of_idle rfl rfl rfl rfl rfl rfl

theorem configure_noRequestYet (clk : PinId) (miso mosi cs : Option PinId) (csact : Level) (mode : BitVec 2)
    (ord : BitOrder) (s : State) : NoRequestYet s ((s.configure clk miso mosi cs csact mode ord).respond .ok []) :=
  .of_idle rfl rfl rfl rfl rfl rfl

theorem begin_noRequestYet (i : Instr) (pos : Seq) (s : State) : NoRequestYet s (s.begin i pos) :=
  ⟨rfl, rfl, rfl, rfl, rfl, fun _ => rfl⟩

theorem beginTransfer_noRequestYet (i : Instr) (rd wr : Bool) (n : Word) (s : State) :
    NoRequestYet s (s.beginTransfer i rd wr n) :=
  ⟨rfl, rfl, rfl, rfl, rfl, fun _ => rfl⟩

/-- The meaning `f` of a command lets the engine run from one state whatever the agent's replies are, and has issued no
request before. -/
def RunsFromOneState (f : State → Host.Outcome State Fault Refusal) (s : State) : Prop :=
  ∃ u, NoRequestYet s u ∧ ∀ rs, f (s.withReplies rs) = .next (u.withReplies rs).runEngine

theorem runsFromOneState_of_idle {f : State → Host.Outcome State Fault Refusal} {s u : State} (hu : NoRequestYet s u)
    (hi : u.seq = .idle) (hf : ∀ rs, f (s.withReplies rs) = .next (u.withReplies rs)) : RunsFromOneState f s :=
  ⟨u, hu, fun rs => by rw [hf, runEngine_of_idle (show (u.withReplies rs).seq = .idle from hi)]⟩

theorem execCfg_runsFromOneState (clk miso mosi cs : Option PinId) (csact : Level) (ord : BitOrder) (mode : Word)
    (s : State) : RunsFromOneState (execCfg clk miso mosi cs csact ord mode) s := by
  by_cases hc : s.configured = true
  · exact runsFromOneState_of_idle (refuse_noRequestYet .state s) rfl fun _ => if_pos hc
  · cases hk : clockOperand clk with
    | none =>
      refine runsFromOneState_of_idle (raise_noRequestYet (.configurationError .clockPin) s) rfl fun _ => ?_
      simp only [execCfg, hk]
      exact if_neg hc
    | some p =>
      cases hm : modeOperand mode with
      | none =>
        refine runsFromOneState_of_idle (raise_noRequestYet (.configurationError .mode) s) rfl fun _ => ?_
        simp only [execCfg, hk, hm]
        exact if_neg hc
      | some m =>
        refine runsFromOneState_of_idle (configure_noRequestYet p miso mosi cs csact m ord s) rfl fun _ => ?_
        simp only [execCfg, hk, hm]
        exact if_neg hc

theorem execSetMode_runsFromOneState (mode : Word) (s : State) : RunsFromOneState (execSetMode mode) s := by
  by_cases hc : s.configured = true
  · cases hm : modeOperand mode with
    | none =>
      refine runsFromOneState_of_idle
        (clearOpen_noRequestYet s.mode s.bitOrd (.configurationError .mode) s) rfl fun _ => ?_
      simp only [execSetMode, hm]
      exact if_pos hc
    | some m =>
      refine runsFromOneState_of_idle (clearOpen_noRequestYet m s.bitOrd .ok s) rfl fun _ => ?_
      simp only [execSetMode, hm]
      exact if_pos hc
  · exact runsFromOneState_of_idle (refuse_noRequestYet .state s) rfl fun _ => if_neg hc

theorem execSetOrder_runsFromOneState (ord : BitOrder) (s : State) : RunsFromOneState (execSetOrder ord) s := by
  by_cases hc : s.configured = true
  · exact runsFromOneState_of_idle (clearOpen_noRequestYet s.mode ord .ok s) rfl fun _ => if_pos hc
  · exact runsFromOneState_of_idle (refuse_noRequestYet .state s) rfl fun _ => if_neg hc

theorem execOpen_runsFromOneState (s : State) : RunsFromOneState execOpen s := by
  by_cases hc : s.configured = true
  · exact ⟨_, begin_noRequestYet .openPins (.opening .clock) s, fun _ => if_pos hc⟩
  · exact runsFromOneState_of_idle (refuse_noRequestYet .state s) rfl fun _ => if_neg hc

theorem execClose_runsFromOneState (s : State) : RunsFromOneState execClose s := by
  by_cases hc : s.configured = true
  · exact ⟨_, begin_noRequestYet .closePins (.closing .first) s, fun _ => if_pos hc⟩
  · exact runsFromOneState_of_idle (refuse_noRequestYet .state s) rfl fun _ => if_neg hc

theorem transfer_runsFromOneState (i : Instr) (rd wr : Bool) (n : Word) (s : State) :
    RunsFromOneState (fun s => .next (s.transfer i rd wr n)) s := by
  by_cases hc : s.configured = true
  · cases hx : s.xferCheck rd wr with
    | some st =>
      refine runsFromOneState_of_idle (raise_noRequestYet st s) rfl fun rs => congrArg _ ((if_pos hc).trans ?_)
      rw [show (s.withReplies rs).xferCheck rd wr = some st from hx]
      rfl
    | none =>
      refine ⟨_, beginTransfer_noRequestYet i rd wr n s, fun rs => congrArg _ ((if_pos hc).trans ?_)⟩
      rw [show (s.withReplies rs).xferCheck rd wr = none from hx]
      rfl
  · exact runsFromOneState_of_idle (refuse_noRequestYet .state s) rfl fun _ => congrArg _ (if_neg hc)

theorem exec_runsFromOneState (i : Instr) (s : State) : RunsFromOneState (exec i) s := by
  cases i with
  | cfg clk miso mosi cs csact ord mode => exact execCfg_runsFromOneState clk miso mosi cs csact ord mode s
  | setMode mode => exact execSetMode_runsFromOneState mode s
  | setOrder ord => exact execSetOrder_runsFromOneState ord s
  | openPins => exact execOpen_runsFromOneState s
  | closePins => exact execClose_runsFromOneState s
  | xfer rd wr data => exact transfer_runsFromOneState _ rd wr _ s
  | read count => exact transfer_runsFromOneState _ true false _ s
  | write data => exact transfer_runsFromOneState _ false true _ s

/-- A step outside a reset lets the engine run from one state whatever the agent's replies are. -/
theorem step_runsFromOneState {s : State} (hr : s.resetPin = false) : RunsFromOneState step s := by
  obtain ⟨h, -⟩ | ⟨-, hw, -⟩ | ⟨m, rest, e, -, hi, hp, hd, -⟩ | ⟨m, rest, i, -, hi, hp, hd, -⟩ := step_cases s
  case inl => exact absurd (hr.symm.trans h) (by decide)
  case inr.inl =>
    refine ⟨s, .refl s, fun rs => step_unfetched hr ?_⟩
    obtain hb | he := hw
    · exact fetch_busy hb
    · exact fetch_empty he
  case inr.inr.inl =>
    exact runsFromOneState_of_idle { refuse_noRequestYet .encoding { s with cmdPort := rest } with } rfl
      fun rs => step_undecodable (s := s.withReplies rs) hr hi hp hd
  case inr.inr.inr =>
    obtain ⟨u, hu, he⟩ := exec_runsFromOneState i { s with cmdPort := rest }
    exact ⟨u, { hu with }, fun rs => (step_decoded (s := s.withReplies rs) hr hi hp hd).trans (he rs)⟩

/-! ### A command that waited (R52, R53) -/

theorem withReplies_self (s : State) : s.withReplies s.replies = s := rfl

/-- A run that stopped at a request without a reply goes on, when more replies come, as one that had them all (log 1). -/
theorem runEngine_more {u : State} {used more : List GpioReply} (hp : u.pace = none)
    (hi : (u.withReplies used).runEngine.seq ≠ .idle) :
    ((u.withReplies used).runEngine.withReplies more).runEngine = (u.withReplies (used ++ more)).runEngine := by
  have hrun (rs : List GpioReply) : (u.withReplies rs).runEngine = drive u.positionsLeft (u.withReplies rs) := by
    rw [runEngine_unbounded (s := u.withReplies rs) hp, withReplies_positionsLeft]
  have hp' : (u.withReplies used).runEngine.pace = none := (runEngine_keeps _).outside.pace.trans hp
  rw [runEngine_unbounded (s := State.withReplies more _) hp', withReplies_positionsLeft, hrun (used ++ more)]
  rw [hrun used] at hi ⊢
  exact (drive_more _ (u.withReplies used) more (withReplies_positionsLeft used u).le hi).symm

/-- Settles O56: both steps run from the state the command entered, and the second goes on where the first one waits. -/
theorem laterRepliesGiveTheSameState : Obligations.LaterRepliesGiveTheSameState := by
  unfold Obligations.LaterRepliesGiveTheSameState
  intro s t used more hpace ht hi
  obtain ⟨-, rfl⟩ | ⟨hr, -⟩ := step_next_cases ht
  · exact absurd rfl hi
  · obtain ⟨u, hu, hstep⟩ := step_runsFromOneState (s := s) hr
    obtain rfl : (u.withReplies used).runEngine = t := Host.Outcome.next.inj ((hstep used).symm.trans ht)
    have hreset : (u.withReplies used).runEngine.resetPin = false :=
      (runEngine_keeps _).outside.resetPin.trans (hu.resetPin.trans hr)
    calc step ((u.withReplies used).runEngine.withReplies more)
        = .next ((u.withReplies used).runEngine.withReplies more).runEngine := step_unfetched hreset (fetch_busy hi)
      _ = .next (u.withReplies (used ++ more)).runEngine := by rw [runEngine_more (hu.pace.trans hpace) hi]
      _ = step (s.withReplies (used ++ more)) := (hstep _).symm

/-! ### One reply and one event for every request (R52, R62, R65) -/

/-- From `s` to `t` the requests `qs`, on pins of the configuration, took the replies `used` from the front and made one
event each, in order; GPIOFAULT rose if one of them failed (R32, R51, R206). -/
structure Answered (qs : List GpioRequest) (used : List GpioReply) (s t : State) : Prop where
  replies : s.replies = used ++ t.replies
  length : qs.length = used.length
  trace : t.trace = s.trace ++ eventsOf qs used
  gpioFault : t.gpioFault = (s.gpioFault || decide (.failed ∈ used))
  pins : ∀ q ∈ qs, q.pin ∈ s.presentPins

theorem Answered.of_silent {s t : State} (hr : t.replies = s.replies) (ht : t.trace = s.trace)
    (hf : t.gpioFault = s.gpioFault) : Answered [] [] s t :=
  ⟨hr.symm, rfl, by simp [ht], by simp [hf], by simp⟩

theorem eventsOf_append {qs ps : List GpioRequest} {used more : List GpioReply} (h : qs.length = used.length) :
    eventsOf (qs ++ ps) (used ++ more) = eventsOf qs used ++ eventsOf ps more :=
  List.zipWith_append h

theorem SeqKeeps.presentPins {s t : State} (h : SeqKeeps s t) : t.presentPins = s.presentPins := by
  simp only [State.presentPins, h.config.clkPin, h.config.misoPin, h.config.mosiPin, h.config.csPin]

theorem Answered.trans {s t u : State} {qs ps : List GpioRequest} {used more : List GpioReply}
    (h : Answered qs used s t) (k : Answered ps more t u) (hp : t.presentPins = s.presentPins) :
    Answered (qs ++ ps) (used ++ more) s u where
  replies := by rw [h.replies, k.replies, List.append_assoc]
  length := by simp only [List.length_append, h.length, k.length]
  trace := by rw [k.trace, h.trace, eventsOf_append h.length, List.append_assoc]
  gpioFault := by simp only [k.gpioFault, h.gpioFault, List.mem_append, Bool.decide_or, Bool.or_assoc]
  pins q hq := by
    obtain hq | hq := List.mem_append.mp hq
    · exact h.pins q hq
    · exact hp ▸ k.pins q hq

theorem clkPin_mem_presentPins (s : State) : s.clkPin ∈ s.presentPins := by simp [State.presentPins]

theorem misoPin_mem_presentPins {s : State} {p : PinId} (h : s.misoPin = some p) : p ∈ s.presentPins := by
  simp [State.presentPins, h]

theorem mosiPin_mem_presentPins {s : State} {p : PinId} (h : s.mosiPin = some p) : p ∈ s.presentPins := by
  simp [State.presentPins, h]

theorem csPin_mem_presentPins {s : State} {p : PinId} (h : s.csPin = some p) : p ∈ s.presentPins := by
  simp [State.presentPins, h]

/-- A request made of an optional pin of the configuration names that pin. -/
theorem pin_mem_of_map {s : State} {pin : Option PinId} {f : PinId → GpioRequest} {q : GpioRequest}
    (h : pin.map f = some q) (hf : ∀ p, (f p).pin = p) (hp : ∀ {p}, pin = some p → p ∈ s.presentPins) :
    q.pin ∈ s.presentPins := by
  obtain ⟨p, hpin, rfl⟩ := Option.map_eq_some_iff.mp h
  exact (hf p).symm ▸ hp hpin

theorem releaseRequest_pin {s : State} {role : Role} {q : GpioRequest} (h : s.releaseRequest role = some q) :
    q.pin ∈ s.presentPins := by
  cases role with
  | miso => exact pin_mem_of_map h (fun _ => rfl) misoPin_mem_presentPins
  | mosi => exact pin_mem_of_map h (fun _ => rfl) mosiPin_mem_presentPins
  | clock => exact Option.some.inj h ▸ clkPin_mem_presentPins s
  | select => exact pin_mem_of_map h (fun _ => rfl) csPin_mem_presentPins

/-- The request of a position names a pin of the configuration registers (R51). -/
theorem request_pin {s : State} {q : GpioRequest} (h : s.request = some q) : q.pin ∈ s.presentPins := by
  cases hs : s.seq with
  | idle => simp [State.request, hs] at h
  | opening j =>
    cases j <;> simp only [State.request, hs] at h
    case clock => exact Option.some.inj h ▸ clkPin_mem_presentPins s
    case select => exact pin_mem_of_map h (fun _ => rfl) csPin_mem_presentPins
    case mosi => exact pin_mem_of_map h (fun _ => rfl) mosiPin_mem_presentPins
    case miso => exact pin_mem_of_map h (fun _ => rfl) misoPin_mem_presentPins
    case setOpen => cases h
  | closing j =>
    cases j <;> simp only [State.request, hs] at h
    case clearOpen => cases h
    all_goals exact releaseRequest_pin h
  | bit x =>
    cases x <;> simp only [State.request, hs, Option.ite_none_right_eq_some] at h
    case mosi => exact pin_mem_of_map h.2 (fun _ => rfl) mosiPin_mem_presentPins
    case clkOn | clkOff => exact Option.some.inj h ▸ clkPin_mem_presentPins s
    case sampleLead | sampleTrail => exact pin_mem_of_map h.2 (fun _ => rfl) misoPin_mem_presentPins
    case acc => cases h
  | csOn | csOff =>
    simp only [State.request, hs] at h
    exact pin_mem_of_map h (fun _ => rfl) csPin_mem_presentPins
  | respond => simp [State.request, hs] at h

theorem seqStep_answered (s : State) : ∃ qs used, Answered qs used s s.seqStep := by
  obtain ⟨-, e⟩ | ⟨q, -, -, e⟩ | ⟨q, lv, rest, hq, hr, e⟩ | ⟨q, rest, hq, hr, e⟩ := seqStep_cases s <;> rw [e]
  · exact ⟨[], [], .of_silent (by simp) (by simp) (by simp)⟩
  · exact ⟨[], [], .of_silent rfl rfl rfl⟩
  · exact ⟨[q], [.done lv], by simp [hr], rfl, by simp, by simp, by simpa using request_pin hq⟩
  · exact ⟨[q], [.failed], by simp [hr], rfl, by simp, by simp, by simpa using request_pin hq⟩

theorem runEngine_answered (s : State) : ∃ qs used, Answered qs used s s.runEngine := by
  refine (drive_induction (P := fun t => SeqKeeps s t ∧ ∃ qs used, Answered qs used s t) ?_ _ s
    ⟨.refl s, [], [], .of_silent rfl rfl rfl⟩).2
  rintro t - ⟨hk, qs, used, h⟩
  obtain ⟨ps, more, k⟩ := seqStep_answered t
  exact ⟨hk.trans (seqStep_keeps t), _, _, h.trans k hk.presentPins⟩

/-- What a step outside a reset answers, it answers by the agent's replies (R51, R52). -/
theorem step_answered {s : State} (hr : s.resetPin = false) :
    ∃ t qs used, step s = .next t ∧ Answered qs used s t := by
  obtain ⟨u, hu, hstep⟩ := step_runsFromOneState hr
  have hrun : step s = .next (u.withReplies s.replies).runEngine := hstep s.replies
  rw [← hu.replies, withReplies_self] at hrun
  have hstart : Answered [] [] s u := .of_silent hu.replies hu.trace hu.gpioFault
  by_cases hi : u.seq = .idle
  · exact ⟨u, [], [], by rw [hrun, runEngine_of_idle hi], hstart⟩
  · obtain ⟨qs, used, h⟩ := runEngine_answered u
    exact ⟨_, qs, used, hrun, hstart.trans h (hu.pins hi)⟩

/-- Settles O49. -/
theorem eventsFollowTheReplies : Obligations.EventsFollowTheReplies := by
  unfold Obligations.EventsFollowTheReplies
  intro s hr
  obtain ⟨t, qs, used, ht, h⟩ := step_answered hr
  exact ⟨t, qs, used, ht, h.replies, h.length, h.trace, h.gpioFault⟩

theorem req_mem_of_mem_eventsOf {qs : List GpioRequest} {used : List GpioReply} {e : GpioEvent}
    (h : e ∈ eventsOf qs used) : e.req ∈ qs := by
  obtain ⟨i, hi, rfl⟩ := List.getElem_of_mem h
  simp [eventsOf, GpioRequest.event]

/-- Settles O50: a reset makes no event, and the events of any other step are those of its requests. -/
theorem onlyConfiguredPinsAreTouched : Obligations.OnlyConfiguredPinsAreTouched := by
  unfold Obligations.OnlyConfiguredPinsAreTouched
  intro s t ht
  obtain ⟨-, rfl⟩ | ⟨hr, -⟩ := step_next_cases ht
  · exact ⟨[], by simp, by simp⟩
  · obtain ⟨t', qs, used, ht', h⟩ := step_answered hr
    obtain rfl : t' = t := Host.Outcome.next.inj (ht'.symm.trans ht)
    exact ⟨_, h.trace, fun e he => h.pins _ (req_mem_of_mem_eventsOf he)⟩

/-! ### The requests a command issues -/

/-- Masking a byte with one bit tells that bit's level. -/
theorem level_of_masked (b : Byte) {mask : Byte} {k : Nat} (hm : mask = BitVec.twoPow 8 k) (hk : k < 8) :
    (if b &&& mask = 0 then Level.low else .high) = Level.ofBit (b.getLsbD k) := by
  rw [hm, BitVec.and_twoPow]
  cases b.getLsbD k with
  | false => rfl
  | true =>
    refine if_neg fun h : BitVec.twoPow 8 k = 0 => ?_
    simpa [hk] using congrArg (BitVec.getLsbD · k) h

/-- Bit position i drives the bit of the byte at that position's index (R29, R160). -/
theorem bitLevel_eq_ofBit (ord : BitOrder) (b : Byte) (i : Fin 8) :
    bitLevel ord b i = Level.ofBit (b.getLsbD (bitIndex ord i)) := by
  cases ord with
  | msb =>
    have hi : ¬ 7 < i.val := by omega
    calc bitLevel .msb b i
        = Level.ofBit ((b <<< i.val).getLsbD 7) := level_of_masked (b <<< i.val) (k := 7) rfl (by decide)
      _ = Level.ofBit (b.getLsbD (7 - i.val)) := by rw [BitVec.getLsbD_shiftLeft]; simp only [hi]; rfl
  | lsb =>
    calc bitLevel .lsb b i
        = Level.ofBit ((b >>> i.val).getLsbD 0) := level_of_masked (b >>> i.val) (k := 0) rfl (by decide)
      _ = Level.ofBit (b.getLsbD i.val) := by rw [BitVec.getLsbD_ushiftRight, Nat.add_zero]

/-- The N word of a transfer (R75, R162). -/
def transferCount (i : Instr) : Word := BitVec.ofNat 32 (transferPayload i).length

theorem exec_transfer {i : Instr} {rd wr : Bool} (h : transferEnables i = some (rd, wr)) (s : State) :
    exec i s = .next (s.transfer i rd wr (transferCount i)) := by
  cases i <;> cases h
  case read count => simp [exec, execRead, transferCount, transferPayload]
  case xfer | write => rfl

theorem transferOperands_transferCount {i : Instr} {rd wr : Bool} (h : transferEnables i = some (rd, wr))
    (hw : WellFormed i) : TransferOperands i rd wr (transferCount i) := by
  cases i <;> cases h
  case read count => simp [TransferOperands, transferCount, transferPayload]
  case xfer | write => exact ⟨rfl, rfl, ofNat_length_toNat hw⟩

theorem transferCount_toNat {i : Instr} (hw : WellFormed i) : (transferCount i).toNat = (transferPayload i).length := by
  cases i with
  | xfer _ _ data => exact ofNat_length_toNat hw
  | write data => exact ofNat_length_toNat hw
  | read count => simp [transferCount, transferPayload]
  | _ => rfl

theorem payloadByte_eq_getD (i : Instr) (k : Word) : payloadByte (some i) k = (transferPayload i).getD k.toNat 0 := by
  cases i with
  | read count =>
    simp only [payloadByte, transferPayload, List.getD_eq_getElem?_getD, List.getElem?_replicate]
    split <;> rfl
  | _ => rfl

theorem xferCheck_of_ready {s : State} {rd wr : Bool} (h : TransferReady s rd wr) : s.xferCheck rd wr = none := by
  have hi : (rd && s.misoPin.isNone) = false := by
    cases rd with
    | false => rfl
    | true => simpa using h.miso rfl
  have ho : (wr && s.mosiPin.isNone) = false := by
    cases wr with
    | false => rfl
    | true => simpa using h.mosi rfl
  simp [State.xferCheck, h.isOpen, hi, ho]

theorem transfer_of_ready {s : State} {rd wr : Bool} (h : TransferReady s rd wr) (i : Instr) (n : Word) :
    s.transfer i rd wr n = (s.beginTransfer i rd wr n).runEngine := by
  simp [State.transfer, h.configured, xferCheck_of_ready h]

/-- The command `i` lets the engine run from `u`, where the requests `reqs` are still to come and none was issued. -/
structure Issues (i : Instr) (reqs : List GpioRequest) (s u : State) : Prop where
  runs : exec i s = .next u.runEngine
  begins : Begins i s u
  port : NoRequestYet s u
  remaining : u.remaining = reqs

theorem open_issues {s : State} (hc : s.configured = true) :
    Issues .openPins s.openRequests s (s.begin .openPins (.opening .clock)) where
  runs := if_pos hc
  begins := begin_begins hc rfl
  port := begin_noRequestYet _ _ s
  remaining := begin_open_remaining s

theorem close_issues {s : State} (hc : s.configured = true) :
    Issues .closePins s.closeRequests s (s.begin .closePins (.closing .first)) where
  runs := if_pos hc
  begins := begin_begins hc rfl
  port := begin_noRequestYet _ _ s
  remaining := begin_close_remaining s

theorem transfer_issues {s : State} {i : Instr} {rd wr : Bool} (he : transferEnables i = some (rd, wr))
    (hw : WellFormed i) (h : TransferReady s rd wr) :
    Issues i (s.transferRequests rd wr (transferPayload i)) s (s.beginTransfer i rd wr (transferCount i)) where
  runs := by rw [exec_transfer he, transfer_of_ready h]
  begins := beginTransfer_begins h fun hw => transferOperands_transferCount he hw
  port := beginTransfer_noRequestYet i rd wr _ s
  remaining := begin_transfer_remaining bitLevel_eq_ofBit s i rd wr _ (transferCount_toNat hw) (payloadByte_eq_getD i)

/-- A busy engine whose request has no reply waits: a step changes nothing (R53; log 3). -/
theorem step_of_waiting {s : State} (hr : s.resetPin = false) (hi : s.seq ≠ .idle) (hw : s.waiting = true) :
    step s = .next s := by
  rw [step_unfetched hr (fetch_busy hi)]
  exact congrArg _ (drive_of_waiting _ hw)

theorem not_idle_of_request {s : State} {q : GpioRequest} (h : s.request = some q) : s.seq ≠ .idle := by
  intro e
  simp [State.request, e] at h

theorem Issues.waits {i : Instr} {reqs : List GpioRequest} {s u : State} {q : GpioRequest} (h : Issues i reqs s u)
    (hpace : s.pace = none) (hd : AllDone s.replies) (hq : reqs[s.replies.length]? = some q) :
    ∃ t, exec i s = .next t ∧ t.request = some q ∧ t.replies = [] ∧ t.cmd = some i ∧
      t.trace = s.trace ++ eventsOf reqs s.replies ∧ t.responses = s.responses ∧ t.isOpen = s.isOpen ∧
      step { t with resetPin := false } = .next { t with resetPin := false } := by
  obtain ⟨hreq, hrep, hcmd, htrace, -, hopen, hresp⟩ :=
    drive_waits u.positionsLeft u q le_rfl (h.port.replies ▸ hd) (by rw [h.remaining, h.port.replies, hq])
  rw [← runEngine_unbounded (h.port.pace.trans hpace)] at hreq hrep hcmd htrace hopen hresp
  refine ⟨_, h.runs, hreq, hrep, hcmd.trans h.begins.cmd, ?_, hresp.trans h.begins.responses,
    hopen.trans h.begins.isOpen, step_of_waiting rfl (not_idle_of_request hreq) ?_⟩
  · rw [htrace, h.port.trace, h.port.replies, h.remaining]
  · exact waiting_iff.mpr (.inr ⟨hreq ▸ rfl, hrep⟩)

/-- Settles O35: each command issues its list of requests, and the engine stands at the first without a reply. -/
theorem commandsWaitForTheAgent : Obligations.CommandsWaitForTheAgent := by
  unfold Obligations.CommandsWaitForTheAgent
  intro s i reqs q hcmd hpace hd hq
  obtain ⟨rfl, hc, rfl⟩ | ⟨rfl, hc, rfl⟩ | ⟨rd, wr, he, hw, hready, rfl⟩ := hcmd
  · exact (open_issues hc).waits hpace hd hq
  · exact (close_issues hc).waits hpace hd hq
  · exact (transfer_issues he hw hready).waits hpace hd hq

end Sys2Proof.Machine

/-! SUPPORT. The codec between its two directions: which command words name an opcode, what the fields of a command word
are, and which bytes a payload stands for (spec 30_encoding R71 to R78). -/

namespace Sys2Proof

/-! ### The bits an opcode fixes (R72, R78) -/

/-- The command-word bits an opcode leaves no choice in: OP itself and every bit outside ALLOWED(op). -/
def Opcode.fixedBits (op : Opcode) : Word := ~~~op.allowed ||| 0xF

theorem extractLsb'_low_toNat (w : Word) : (w.extractLsb' 0 4).toNat = (w &&& 0xF).toNat := by
  simp [Nat.and_two_pow_sub_one_eq_mod w.toNat 4]

theorem ofWord_and_low (w : Word) : Opcode.ofWord (w &&& 0xF) = Opcode.ofWord w := by
  simp only [Opcode.ofWord, extractLsb'_low_toNat, BitVec.and_assoc, BitVec.and_self]

theorem ofWord_eq_some_iff {w : Word} {op : Opcode} : Opcode.ofWord w = some op ↔ w &&& 0xF = op.code := by
  constructor
  · intro h
    apply BitVec.eq_of_toNat_eq
    rw [← extractLsb'_low_toNat]
    unfold Opcode.ofWord at h
    split at h <;> cases h <;> assumption
  · intro h
    rw [← ofWord_and_low, h, ofWord_code]

/-- A word has an opcode's fixed bits exactly when it names the opcode and has no bit outside ALLOWED(op). -/
theorem and_fixedBits_eq_code_iff {w : Word} {op : Opcode} :
    w &&& op.fixedBits = op.code ↔ Opcode.ofWord w = some op ∧ w &&& ~~~op.allowed = 0 := by
  rw [ofWord_eq_some_iff]
  constructor
  · intro h
    obtain ⟨hlow, hcode⟩ : op.fixedBits &&& 0xF = 0xF ∧ op.code &&& 0xF = op.code := by cases op <;> decide
    obtain ⟨hreserved, hzero⟩ : op.fixedBits &&& ~~~op.allowed = ~~~op.allowed ∧ op.code &&& ~~~op.allowed = 0 := by
      cases op <;> decide
    exact ⟨by rw [← hlow, ← BitVec.and_assoc, h, hcode], by rw [← hreserved, ← BitVec.and_assoc, h, hzero]⟩
  · rintro ⟨hop, hreserved⟩
    rw [Opcode.fixedBits, BitVec.and_or_distrib_left, hreserved, hop, BitVec.ofNat_eq_ofNat, BitVec.zero_or]

/-! ### The operands an opcode decodes to (R77) -/

/-- What the operand words of an opcode decode to, one rule per opcode (R73 to R75, R77). -/
inductive DecodesTo (w0 : Word) : Opcode → Message → Instr → Prop
  | cfg (clk miso mosi cs mode : Word) :
    DecodesTo w0 .cfg [clk, miso, mosi, cs, mode]
      (.cfg (pinOperand (w0.getLsbD 8) clk) (pinOperand (w0.getLsbD 9) miso) (pinOperand (w0.getLsbD 10) mosi)
        (pinOperand (w0.getLsbD 11) cs) (Level.ofBit (w0.getLsbD 12)) (BitOrder.ofBit (w0.getLsbD 13)) mode)
  | setMode (mode : Word) : DecodesTo w0 .setMode [mode] (.setMode mode)
  | setOrder : DecodesTo w0 .setOrder [] (.setOrder (BitOrder.ofBit (w0.getLsbD 13)))
  | openPins : DecodesTo w0 .openPins [] .openPins
  | closePins : DecodesTo w0 .closePins [] .closePins
  | xfer {n : Word} {payload : Message} (hl : payload.length = payloadWords n.toNat) :
    DecodesTo w0 .xfer (n :: payload) (.xfer (w0.getLsbD 4) (w0.getLsbD 5) (payloadOperand n payload))
  | read (count : Word) : DecodesTo w0 .read [count] (.read count)
  | write {n : Word} {payload : Message} (hl : payload.length = payloadWords n.toNat) :
    DecodesTo w0 .write (n :: payload) (.write (payloadOperand n payload))

theorem decodeOperands_eq_ok_iff {op : Opcode} {w0 : Word} {ops : Message} {i : Instr} :
    decodeOperands op w0 ops = .ok i ↔ DecodesTo w0 op ops i := by
  constructor
  · intro h
    cases op with
    | xfer | write =>
      simp only [decodeOperands] at h
      split at h
      case h_1 =>
        split at h
        case isTrue hl =>
          obtain rfl := Except.ok.inj h
          constructor
          exact hl
        case isFalse => cases h
      case h_2 => cases h
    | _ =>
      simp only [decodeOperands] at h
      split at h <;> cases h
      constructor
  · intro h
    cases h with
    | xfer hl | write hl => exact if_pos hl
    | _ => rfl

/-- Decode(msg) succeeds where the command word has an opcode's fixed bits and the operands decode (R77). -/
theorem decode_eq_ok_iff {m : Message} {i : Instr} :
    decode m = .ok i ↔
      ∃ op w0 ops, m = w0 :: ops ∧ w0 &&& op.fixedBits = op.code ∧ DecodesTo w0 op ops i := by
  constructor
  · intro h
    unfold decode at h
    split at h
    case h_1 => cases h
    case h_2 w0 ops =>
      split at h
      case h_1 => cases h
      case h_2 op hop =>
        split at h
        case isTrue hbits =>
          exact ⟨op, w0, ops, rfl, and_fixedBits_eq_code_iff.mpr ⟨hop, hbits⟩, decodeOperands_eq_ok_iff.mp h⟩
        case isFalse => cases h
  · rintro ⟨op, w0, ops, rfl, hfix, h⟩
    obtain ⟨hop, hbits⟩ := and_fixedBits_eq_code_iff.mp hfix
    simp only [decode, hop, hbits, if_true, decodeOperands_eq_ok_iff.mpr h]

/-- The length check is all that the operands can fail (R77). -/
theorem exists_decodesTo_iff {op : Opcode} {w0 : Word} {ops : Message} :
    (∃ i, DecodesTo w0 op ops i) ↔ (w0 :: ops).length = op.messageLength (ops.headD 0) := by
  constructor
  · rintro ⟨i, h⟩
    cases h with
    | xfer hl | write hl =>
      simp only [List.length_cons, List.headD_cons, Opcode.messageLength, hl]
      omega
    | _ => rfl
  · intro h
    rw [List.length_cons] at h
    cases op with
    | cfg =>
      match ops, Nat.succ.inj h with
      | [clk, miso, mosi, cs, mode], _ => exact ⟨_, .cfg clk miso mosi cs mode⟩
    | setMode =>
      obtain ⟨mode, rfl⟩ := List.length_eq_one_iff.mp (Nat.succ.inj h)
      exact ⟨_, .setMode mode⟩
    | read =>
      obtain ⟨count, rfl⟩ := List.length_eq_one_iff.mp (Nat.succ.inj h)
      exact ⟨_, .read count⟩
    | setOrder | openPins | closePins =>
      obtain rfl := List.eq_nil_of_length_eq_zero (Nat.succ.inj h)
      exact ⟨_, by constructor⟩
    | xfer | write =>
      simp only [Opcode.messageLength] at h
      cases ops with
      | nil =>
        rw [List.length_nil] at h
        omega
      | cons n payload =>
        rw [List.length_cons, List.headD_cons] at h
        exact ⟨_, by constructor; omega⟩

/-! ### The fields of a command word (R71) -/

theorem bitAt_true (n : Nat) : bitAt n true = BitVec.twoPow 32 n := rfl

@[simp] theorem getElem_bitAt (n j : Nat) (b : Bool) (hj : j < 32) : (bitAt n b)[j] = (b && decide (n = j)) := by
  cases b with
  | false => simp [bitAt_false]
  | true => simp [bitAt_true, eq_comm]

theorem bitAt_getLsbD (w : Word) (n : Nat) : bitAt n (w.getLsbD n) = w &&& bitAt n true := by
  rw [bitAt_true, BitVec.and_twoPow]
  rfl

/-- A word is its fixed bits and its optional ones, where these are all there are. -/
theorem code_or_and_optional {w fixed code optional : Word} (hfix : w &&& fixed = code)
    (hall : fixed ||| optional = BitVec.allOnes 32) : code ||| (w &&& optional) = w := by
  rw [← hfix, ← BitVec.and_or_distrib_left, hall, BitVec.and_allOnes]

@[simp] theorem pinOperand_isSome (present : Bool) (w : Word) : (pinOperand present w).isSome = present := by
  cases present <;> rfl

@[simp] theorem Level.toBit_ofBit (b : Bool) : (Level.ofBit b).toBit = b := by cases b <;> rfl

@[simp] theorem Level.ofBit_toBit (l : Level) : Level.ofBit l.toBit = l := by cases l <;> rfl

@[simp] theorem BitOrder.toBit_ofBit (b : Bool) : (BitOrder.ofBit b).toBit = b := by cases b <;> rfl

@[simp] theorem BitOrder.ofBit_toBit (o : BitOrder) : BitOrder.ofBit o.toBit = o := by cases o <;> rfl

theorem commandWord_and_fixedBits (i : Instr) : commandWord i &&& i.opcode.fixedBits = i.opcode.code := by
  apply and_fixedBits_eq_code_iff.mpr
  cases i with
  | cfg => exact Laws.CommandWord.cfg ..
  | setMode => exact Laws.CommandWord.setMode ..
  | setOrder => exact Laws.CommandWord.setOrder ..
  | openPins => exact Laws.CommandWord.openPins
  | closePins => exact Laws.CommandWord.closePins
  | xfer => exact Laws.CommandWord.xfer ..
  | read => exact Laws.CommandWord.read ..
  | write => exact Laws.CommandWord.write ..

/-- The command word of a decoded command is the word it was decoded from (R71). -/
theorem DecodesTo.commandWord_eq {op : Opcode} {w0 : Word} {ops : Message} {i : Instr} (h : DecodesTo w0 op ops i)
    (hfix : w0 &&& op.fixedBits = op.code) : commandWord i = w0 := by
  cases h with
  | cfg | setOrder | xfer =>
    simp only [commandWord, pinOperand_isSome, Level.toBit_ofBit, BitOrder.toBit_ofBit, bitAt_getLsbD, BitVec.or_assoc,
      ← BitVec.and_or_distrib_left]
    exact code_or_and_optional hfix (by decide)
  | _ => exact hfix.symm.trans BitVec.and_allOnes

end Sys2Proof

namespace Sys2Proof.Machine

/-! ### The operand words (R73 to R75) -/

theorem pinWord_pinOperand {present : Bool} {w : Word} : PinWord (pinOperand present w) w := by
  cases present with
  | false => exact fun _ h => by cases h
  | true => exact fun _ h => Option.some.inj h

theorem pinOperand_of_pinWord {pin : Option PinId} {w : Word} (h : PinWord pin w) : pinOperand pin.isSome w = pin := by
  cases pin with
  | none => rfl
  | some p => exact congrArg some (h p rfl)

theorem payloadOperand_getElem? {n : Word} {payload : Message} (hl : payload.length = payloadWords n.toNat) {j : Nat}
    (hj : j < n.toNat) :
    (payloadOperand n payload)[j]? = some ((payload.getD (j / 4) 0).extractLsb' (8 * (j % 4)) 8) := by
  rw [payloadOperand, List.getElem?_take_of_lt hj, unpackWords_getElem?]
  rw [hl, payloadWords]
  omega

/-- A payload of the length the decoder accepts stands for the N bytes taken from it, and for no others (R75). -/
theorem payloadOperand_eq_iff {n : Word} {payload : Message} {data : List Byte} :
    payload.length = payloadWords n.toNat ∧ payloadOperand n payload = data ↔
      n.toNat = data.length ∧ PayloadWords data payload := by
  constructor
  · rintro ⟨hl, rfl⟩
    have hn := payloadOperand_length hl
    exact ⟨hn.symm, by rw [hn, hl], fun j hj => (payloadOperand_getElem? hl (hn ▸ hj)).symm⟩
  · rintro ⟨hn, hl, hbytes⟩
    rw [← hn] at hl
    refine ⟨hl, List.ext_getElem?' fun j hj => ?_⟩
    rw [payloadOperand_length hl, hn, max_self] at hj
    rw [payloadOperand_getElem? hl (hn ▸ hj), hbytes j hj]

theorem operandsAgree_of_decodesTo {op : Opcode} {w0 : Word} {ops : Message} {i : Instr} (h : DecodesTo w0 op ops i) :
    OperandsAgree i ops := by
  cases h with
  | cfg => exact ⟨_, _, _, _, rfl, pinWord_pinOperand, pinWord_pinOperand, pinWord_pinOperand, pinWord_pinOperand⟩
  | xfer hl | write hl => exact ⟨_, _, rfl, payloadOperand_eq_iff.mp ⟨hl, rfl⟩⟩
  | _ => rfl

theorem decodeOperands_of_operandsAgree {i : Instr} {ops : Message} (h : OperandsAgree i ops) :
    decodeOperands i.opcode (commandWord i) ops = .ok i := by
  cases i with
  | cfg clk miso mosi cs csact ord mode =>
    obtain ⟨w1, w2, w3, w4, rfl, h1, h2, h3, h4⟩ := h
    simp [decodeOperands, Instr.opcode, commandWord, Opcode.code, pinOperand_of_pinWord h1, pinOperand_of_pinWord h2,
      pinOperand_of_pinWord h3, pinOperand_of_pinWord h4]
  | setOrder ord =>
    subst h
    simp [decodeOperands, Instr.opcode, commandWord, Opcode.code]
  | xfer rd wr data | write data =>
    obtain ⟨n, payload, rfl, hp⟩ := h
    obtain ⟨hl, hdata⟩ := payloadOperand_eq_iff.mpr hp
    simp [decodeOperands, Instr.opcode, commandWord, Opcode.code, hl, hdata]
  | setMode _ | openPins | closePins | read _ =>
    subst h
    rfl

theorem payloadWords_packBytes {data : List Byte} (hf : payloadFits data = true) :
    (BitVec.ofNat 32 data.length).toNat = data.length ∧ PayloadWords data (packBytes data) :=
  payloadOperand_eq_iff.mp ⟨by rw [packBytes_length, ofNat_length_toNat hf], payloadOperand_packBytes hf⟩

theorem pinWord_getD (pin : Option PinId) : PinWord pin (pin.getD 0) := by
  rintro p rfl
  rfl

/-- What a host should send agrees with the command it is sent for. -/
theorem operandsAgree_operandWords {i : Instr} (hw : WellFormed i) : OperandsAgree i (operandWords i) := by
  cases i with
  | cfg => exact ⟨_, _, _, _, rfl, pinWord_getD _, pinWord_getD _, pinWord_getD _, pinWord_getD _⟩
  | xfer | write => exact ⟨_, _, rfl, payloadWords_packBytes hw⟩
  | _ => rfl

/-- Settles O5: the decoder's stages read the command word's fixed and optional bits, and the operand words a rule gives
a meaning. -/
theorem decodingReadsExactlyTheMeaningfulWords : Obligations.DecodingReadsExactlyTheMeaningfulWords := by
  unfold Obligations.DecodingReadsExactlyTheMeaningfulWords
  intro m i
  rw [decode_eq_ok_iff]
  constructor
  · rintro ⟨op, w0, ops, rfl, hfix, h⟩
    exact ⟨ops, by rw [h.commandWord_eq hfix], operandsAgree_of_decodesTo h⟩
  · rintro ⟨ops, rfl, h⟩
    exact ⟨i.opcode, _, ops, rfl, commandWord_and_fixedBits i,
      decodeOperands_eq_ok_iff.mp (decodeOperands_of_operandsAgree h)⟩

/-- Settles O2: the operand words `encode` writes are among those that agree with the command. -/
theorem decodeOfEncodeIsTheCommand : Obligations.DecodeOfEncodeIsTheCommand := by
  unfold Obligations.DecodeOfEncodeIsTheCommand
  exact fun i hw => (decodingReadsExactlyTheMeaningfulWords _ i).mpr ⟨_, rfl, operandsAgree_operandWords hw⟩

/-- Settles O3: the length check keeps the payload within the N word. -/
theorem decodedCommandsAreWellFormed : Obligations.DecodedCommandsAreWellFormed := by
  unfold Obligations.DecodedCommandsAreWellFormed
  exact fun _ _ => decode_wellFormed

/-! ### The opcode table (R72, R78) -/

/-- An opcode's row of spec/opcode_table.json. -/
def tableRow (op : Opcode) : TableRow :=
  ⟨op.code, op.fixedBits, match op with
    | .xfer | .write => none
    | _ => some (op.messageLength 0)⟩

theorem mem_tableRows_iff {row : TableRow} : row ∈ tableRows ↔ ∃ op, tableRow op = row := by
  have hrows : tableRows = [.cfg, .setMode, .setOrder, .openPins, .closePins, .xfer, .read, .write].map tableRow := by
    decide
  rw [hrows, List.mem_map]
  exact exists_congr fun op => and_iff_right (by cases op <;> decide)

theorem tableRow_length_getD (op : Opcode) (w1 : Word) :
    (tableRow op).length.getD (2 + payloadWords w1.toNat) = op.messageLength w1 := by
  cases op <;> rfl

/-- Settles O4: an opcode's row asks for its fixed bits and its message length, as the decoder does. -/
theorem exactlyTheTableMessagesDecode : Obligations.ExactlyTheTableMessagesDecode := by
  unfold Obligations.ExactlyTheTableMessagesDecode
  intro m
  constructor
  · rintro ⟨i, h⟩
    obtain ⟨op, w0, ops, rfl, hfix, h⟩ := decode_eq_ok_iff.mp h
    refine ⟨_, mem_tableRows_iff.mpr ⟨op, rfl⟩, w0, ops, rfl, hfix, ?_⟩
    rw [tableRow_length_getD]
    exact exists_decodesTo_iff.mp ⟨i, h⟩
  · rintro ⟨row, hrow, w0, ops, rfl, hfix, hlen⟩
    obtain ⟨op, rfl⟩ := mem_tableRows_iff.mp hrow
    rw [tableRow_length_getD] at hlen
    obtain ⟨i, h⟩ := exists_decodesTo_iff.mpr hlen
    exact ⟨i, decode_eq_ok_iff.mpr ⟨op, w0, ops, rfl, hfix, h⟩⟩

/-! ### The spec's examples and a step -/

theorem encode_and_decode {i : Instr} {m : Message} (hw : WellFormed i) (hm : encode i = m) :
    encode i = m ∧ decode m = .ok i :=
  ⟨hm, hm ▸ decodeOfEncodeIsTheCommand i hw⟩

/-- Settles O1: the lines' encodings are compared word by word; that they decode back is the round trip. -/
theorem specExamplesEncodeAndDecode : Obligations.SpecExamplesEncodeAndDecode := by
  unfold Obligations.SpecExamplesEncodeAndDecode
  refine fun ex hex => encode_and_decode ?wf ?words
  case wf =>
    revert ex
    decide
  case words =>
    revert ex
    decide

/-- Settles O7: an idle engine fetches the first message offered. -/
theorem stepRunsTheDecodedCommand : Obligations.StepRunsTheDecodedCommand := by
  unfold Obligations.StepRunsTheDecodedCommand
  exact fun _ _ _ _ => step_decoded

end Sys2Proof.Machine

/-! SUPPORT. The statements about the configuration commands CFG, SETMODE and SETORDER: their operand checks, what each of
them answers in every case, and what they leave alone (spec 40_configuration R100 to R105). -/

namespace Sys2Proof.Machine

/-! ### The operand checks (R22, R27, R100, R102) -/

theorem clockOperand_eq_none_iff {clk : Option PinId} : clockOperand clk = none ↔ ∀ p, clk = some p → p.toInt < 1 := by
  cases clk <;> simp [clockOperand]

theorem clockOperand_of_one_le {p : PinId} (h : 1 ≤ p.toInt) : clockOperand (some p) = some p := if_pos h

theorem modeOperand_eq_none_iff {w : Word} : modeOperand w = none ↔ w.toInt < 0 ∨ 3 < w.toInt := by
  rw [modeOperand, ite_eq_right_iff]
  simp only [reduceCtorEq, imp_false]
  omega

theorem modeOperand_of_toInt {w : Word} {m : BitVec 2} (h : w.toInt = m.toNat) : modeOperand w = some m := by
  have hm := m.isLt
  have hw : w.toNat = m.toNat := by
    rw [BitVec.toInt_eq_toNat_cond] at h
    split at h <;> omega
  rw [modeOperand, if_pos (by omega)]
  exact congrArg some (BitVec.eq_of_toNat_eq (by rw [BitVec.toNat_setWidth, hw, Nat.mod_eq_of_lt hm]))

/-! ### A response of an engine at rest -/

/-- With SEQ = IDLE already, only the response is new (R33, R80). -/
theorem respond_at_rest {s : State} (hs : s.seq = .idle) (hc : s.cmd = none) (st : Status) (bytes : List Byte) :
    s.respond st bytes = { s with responses := s.responses ++ [st.word :: packBytes bytes] } := by
  rw [State.respond, ← hs, ← hc]

theorem refuse_at_rest {s : State} (hs : s.seq = .idle) (hc : s.cmd = none) (cause : RefusedCause) :
    s.refuse cause =
      { s with responses := s.responses ++ [[Status.word (.refused cause)]], refusedMark := true } :=
  respond_at_rest (s := { s with refusedMark := true }) hs hc (.refused cause) []

/-! ### What each command answers -/

section
variable {clk miso mosi cs : Option PinId} {csact : Level} {ord : BitOrder} {mode : Word} {s : State}

theorem execCfg_configured (hc : s.configured = true) :
    execCfg clk miso mosi cs csact ord mode s = .next (s.refuse .state) := if_pos hc

theorem execCfg_badClock (hc : s.configured = false) (hk : clockOperand clk = none) :
    execCfg clk miso mosi cs csact ord mode s = .next (s.raise (.configurationError .clockPin)) := by
  simp [execCfg, hc, hk]

theorem execCfg_badMode {p : PinId} (hc : s.configured = false) (hk : clockOperand clk = some p)
    (hm : modeOperand mode = none) :
    execCfg clk miso mosi cs csact ord mode s = .next (s.raise (.configurationError .mode)) := by
  simp [execCfg, hc, hk, hm]

theorem execCfg_legal {p : PinId} {m : BitVec 2} (hc : s.configured = false) (hk : clockOperand clk = some p)
    (hm : modeOperand mode = some m) :
    execCfg clk miso mosi cs csact ord mode s =
      .next ((s.configure p miso mosi cs csact m ord).respond .ok []) := by
  simp [execCfg, hc, hk, hm]

/-- CFG is refused when configured, ends with the error of its first failed check, or configures (R100). -/
theorem execCfg_cases (clk miso mosi cs : Option PinId) (csact : Level) (ord : BitOrder) (mode : Word) (s : State) :
    (s.configured = true ∧ execCfg clk miso mosi cs csact ord mode s = .next (s.refuse .state)) ∨
    (s.configured = false ∧ clockOperand clk = none ∧
      execCfg clk miso mosi cs csact ord mode s = .next (s.raise (.configurationError .clockPin))) ∨
    (∃ p, s.configured = false ∧ clockOperand clk = some p ∧ modeOperand mode = none ∧
      execCfg clk miso mosi cs csact ord mode s = .next (s.raise (.configurationError .mode))) ∨
    (∃ p m, s.configured = false ∧ clockOperand clk = some p ∧ modeOperand mode = some m ∧
      execCfg clk miso mosi cs csact ord mode s =
        .next ((s.configure p miso mosi cs csact m ord).respond .ok [])) := by
  cases hc : s.configured with
  | true => exact .inl ⟨rfl, execCfg_configured hc⟩
  | false =>
    cases hk : clockOperand clk with
    | none => exact .inr (.inl ⟨rfl, rfl, execCfg_badClock hc hk⟩)
    | some p =>
      cases hm : modeOperand mode with
      | none => exact .inr (.inr (.inl ⟨p, rfl, rfl, rfl, execCfg_badMode hc hk hm⟩))
      | some m => exact .inr (.inr (.inr ⟨p, m, rfl, rfl, rfl, execCfg_legal hc hk hm⟩))

theorem execSetMode_unconfigured (hc : s.configured = false) : execSetMode mode s = .next (s.refuse .state) := by
  simp [execSetMode, hc]

theorem execSetMode_badMode (hc : s.configured = true) (hm : modeOperand mode = none) :
    execSetMode mode s = .next (s.clearOpen.raise (.configurationError .mode)) := by
  simp [execSetMode, hc, hm]

theorem execSetMode_legal {m : BitVec 2} (hc : s.configured = true) (hm : modeOperand mode = some m) :
    execSetMode mode s = .next ({ s.clearOpen with mode := m }.respond .ok []) := by
  simp [execSetMode, hc, hm]

/-- SETMODE is refused in Unconfigured; otherwise it clears ISOPEN, and fails its check or writes MODE (R102). -/
theorem execSetMode_cases (mode : Word) (s : State) :
    (s.configured = false ∧ execSetMode mode s = .next (s.refuse .state)) ∨
    (s.configured = true ∧ modeOperand mode = none ∧
      execSetMode mode s = .next (s.clearOpen.raise (.configurationError .mode))) ∨
    (∃ m, s.configured = true ∧ modeOperand mode = some m ∧
      execSetMode mode s = .next ({ s.clearOpen with mode := m }.respond .ok [])) := by
  cases hc : s.configured with
  | false => exact .inl ⟨rfl, execSetMode_unconfigured hc⟩
  | true =>
    cases hm : modeOperand mode with
    | none => exact .inr (.inl ⟨rfl, rfl, execSetMode_badMode hc hm⟩)
    | some m => exact .inr (.inr ⟨m, rfl, rfl, execSetMode_legal hc hm⟩)

theorem execSetOrder_unconfigured (hc : s.configured = false) : execSetOrder ord s = .next (s.refuse .state) := by
  simp [execSetOrder, hc]

theorem execSetOrder_configured (hc : s.configured = true) :
    execSetOrder ord s = .next ({ s.clearOpen with bitOrd := ord }.respond .ok []) := if_pos hc

end

/-! ### The exact answers -/

theorem cfg_opcode_bits (clk miso mosi cs : Option PinId) (csact : Level) (ord : BitOrder) (mode : Word) :
    (commandWord (.cfg clk miso mosi cs csact ord mode)).extractLsb' 0 4 = 0x1 := by
  have hop := ofWord_eq_some_iff.mp (Laws.CommandWord.cfg clk miso mosi cs csact ord mode).1
  apply BitVec.eq_of_toNat_eq
  rw [extractLsb'_low_toNat, hop]
  rfl

/-- Settles O18: the case rules of CFG, each with the response of an engine at rest. -/
theorem cfgChecksThenConfigures : Obligations.CfgChecksThenConfigures := by
  unfold Obligations.CfgChecksThenConfigures
  intro s clk miso mosi cs csact ord mode hs hcmd
  refine ⟨⟨rfl, congrArg some (cfg_opcode_bits ..)⟩, fun hc => ?configured, fun hc hclk => ?badClock,
    fun p hc hclk hp hmode => ?badMode, fun p m hc hclk hp hmode => ?legal⟩
  case configured => exact (execCfg_configured hc).trans (congrArg _ (refuse_at_rest hs hcmd .state))
  case badClock =>
    exact (execCfg_badClock hc (clockOperand_eq_none_iff.mpr hclk)).trans (congrArg _ (respond_at_rest hs hcmd _ []))
  case badMode =>
    subst hclk
    exact (execCfg_badMode hc (clockOperand_of_one_le hp) (modeOperand_eq_none_iff.mpr hmode)).trans
      (congrArg _ (respond_at_rest hs hcmd _ []))
  case legal =>
    subst hclk
    exact (execCfg_legal hc (clockOperand_of_one_le hp) (modeOperand_of_toInt hmode)).trans
      (congrArg _ (respond_at_rest (s := s.configure p miso mosi cs csact m ord) hs hcmd .ok []))

/-- Settles O20: the case rules of SETMODE; ISOPEN is cleared before the mode check. -/
theorem setModeClearsOpenAndChecks : Obligations.SetModeClearsOpenAndChecks := by
  unfold Obligations.SetModeClearsOpenAndChecks
  intro s mode hs hcmd
  refine ⟨rfl, fun hc => ?unconfigured, fun hc hmode => ?badMode, fun m hc hmode => ?legal⟩
  case unconfigured => exact (execSetMode_unconfigured hc).trans (congrArg _ (refuse_at_rest hs hcmd .state))
  case badMode =>
    exact (execSetMode_badMode hc (modeOperand_eq_none_iff.mpr hmode)).trans
      (congrArg _ (respond_at_rest (s := s.clearOpen) hs hcmd _ []))
  case legal =>
    exact (execSetMode_legal hc (modeOperand_of_toInt hmode)).trans
      (congrArg _ (respond_at_rest (s := { s.clearOpen with mode := m }) hs hcmd .ok []))

/-- Settles O21: the case rules of SETORDER. -/
theorem setOrderClearsOpenAndWrites : Obligations.SetOrderClearsOpenAndWrites := by
  unfold Obligations.SetOrderClearsOpenAndWrites
  intro s ord hs hcmd
  refine ⟨by cases ord <;> rfl, fun hc => ?unconfigured, fun hc => ?configured⟩
  case unconfigured => exact (execSetOrder_unconfigured hc).trans (congrArg _ (refuse_at_rest hs hcmd .state))
  case configured =>
    exact (execSetOrder_configured hc).trans
      (congrArg _ (respond_at_rest (s := { s.clearOpen with bitOrd := ord }) hs hcmd .ok []))

/-- Settles O19: a clock pin within the positive 32-bit range is its own two's-complement value, mode 0 is legal, and the
command word only looks at whether a pin is present. -/
theorem cfgDefaultsAreTheSourceDefaults : Obligations.CfgDefaultsAreTheSourceDefaults := by
  unfold Obligations.CfgDefaultsAreTheSourceDefaults
  intro s c hc hlo hhi
  have hclk : (BitVec.ofInt 32 c).toInt = c := BitVec.toInt_ofInt_eq_self (by decide) (by omega) hhi
  have hword : commandWord (.cfg (some 0) none none none .low .msb 0) = 0x00000101 := by decide
  have hpin : clockOperand (some (BitVec.ofInt 32 c)) = some (BitVec.ofInt 32 c) :=
    clockOperand_of_one_le (hclk.symm ▸ hlo)
  have hmode : modeOperand (BitVec.ofInt 32 0) = some 0 := modeOperand_of_toInt (by decide)
  have hcfg : exec (assemble (.cfg { clk := some c })) s =
      .next ((s.configure (BitVec.ofInt 32 c) none none none .low 0 .msb).respond .ok []) :=
    execCfg_legal hc hpin hmode
  exact ⟨congrArg (· :: [BitVec.ofInt 32 c, 0, 0, 0, 0]) hword, _, hcfg, rfl, hclk, rfl, rfl, rfl, rfl, rfl, rfl⟩

/-! ### What the configuration commands leave alone (R103) -/

/-- What no configuration command touches, however it is answered: the GPIO port, GPIOFAULT, the transfer datapath and the
outside. -/
structure KeepsTransferSide (s t : State) : Prop where
  trace : t.trace = s.trace
  replies : t.replies = s.replies
  gpioFault : t.gpioFault = s.gpioFault
  datapath : SameDatapath s t
  outside : SameOutside s t

/-- An answer that leaves the ports alone keeps the transfer side if it keeps the datapath. -/
theorem NoRequestYet.keepsTransferSide {s t : State} (h : NoRequestYet s t) (hd : SameDatapath s t)
    (ho : SameOutside s t) : KeepsTransferSide s t :=
  ⟨h.trace, h.replies, h.gpioFault, hd, ho⟩

theorem raise_keepsTransferSide (st : Status) (s : State) : KeepsTransferSide s (s.raise st) :=
  (raise_noRequestYet st s).keepsTransferSide (by constructor <;> rfl) (raise_sameOutside st s)

theorem refuse_keepsTransferSide (cause : RefusedCause) (s : State) : KeepsTransferSide s (s.refuse cause) :=
  (refuse_noRequestYet cause s).keepsTransferSide (by constructor <;> rfl) (refuse_sameOutside cause s)

theorem configure_keepsTransferSide (clk : PinId) (miso mosi cs : Option PinId) (csact : Level) (mode : BitVec 2)
    (ord : BitOrder) (s : State) :
    KeepsTransferSide s ((s.configure clk miso mosi cs csact mode ord).respond .ok []) :=
  (configure_noRequestYet clk miso mosi cs csact mode ord s).keepsTransferSide (by constructor <;> rfl)
    ⟨rfl, rfl, rfl, rfl⟩

theorem clearOpen_keepsTransferSide (mode : BitVec 2) (ord : BitOrder) (st : Status) (s : State) :
    KeepsTransferSide s ({ s.clearOpen with mode := mode, bitOrd := ord }.respond st []) :=
  (clearOpen_noRequestYet mode ord st s).keepsTransferSide (by constructor <;> rfl)
    (clearOpen_answersAtOnce mode ord st s).outside

theorem refuse_sameWiring (cause : RefusedCause) (s : State) : SameWiring s (s.refuse cause) :=
  ⟨rfl, rfl, rfl, rfl, rfl, rfl⟩

theorem execCfg_keeps {clk miso mosi cs : Option PinId} {csact : Level} {ord : BitOrder} {mode : Word} {s t : State}
    (h : execCfg clk miso mosi cs csact ord mode s = .next t) : KeepsTransferSide s t := by
  obtain ⟨-, e⟩ | ⟨-, -, e⟩ | ⟨p, -, -, -, e⟩ | ⟨p, m, -, -, -, e⟩ :=
    execCfg_cases clk miso mosi cs csact ord mode s <;> obtain rfl := Host.Outcome.next.inj (e.symm.trans h)
  · exact refuse_keepsTransferSide .state s
  · exact raise_keepsTransferSide (.configurationError .clockPin) s
  · exact raise_keepsTransferSide (.configurationError .mode) s
  · exact configure_keepsTransferSide p miso mosi cs csact m ord s

theorem execSetMode_keeps {mode : Word} {s t : State} (h : execSetMode mode s = .next t) :
    KeepsTransferSide s t ∧ SameWiring s t ∧ t.bitOrd = s.bitOrd := by
  obtain ⟨-, e⟩ | ⟨hc, -, e⟩ | ⟨m, hc, -, e⟩ := execSetMode_cases mode s <;>
    obtain rfl := Host.Outcome.next.inj (e.symm.trans h)
  · exact ⟨refuse_keepsTransferSide .state s, refuse_sameWiring .state s, rfl⟩
  · exact ⟨clearOpen_keepsTransferSide s.mode s.bitOrd (.configurationError .mode) s,
      (clearOpen_answersAtOnce s.mode s.bitOrd (.configurationError .mode) s).wiring hc, rfl⟩
  · exact ⟨clearOpen_keepsTransferSide m s.bitOrd .ok s, (clearOpen_answersAtOnce m s.bitOrd .ok s).wiring hc, rfl⟩

theorem execSetOrder_keeps {ord : BitOrder} {s t : State} (h : execSetOrder ord s = .next t) :
    KeepsTransferSide s t ∧ SameWiring s t ∧ t.mode = s.mode := by
  cases hc : s.configured with
  | false =>
    obtain rfl := Host.Outcome.next.inj ((execSetOrder_unconfigured hc).symm.trans h)
    exact ⟨refuse_keepsTransferSide .state s, refuse_sameWiring .state s, rfl⟩
  | true =>
    obtain rfl := Host.Outcome.next.inj ((execSetOrder_configured hc).symm.trans h)
    exact ⟨clearOpen_keepsTransferSide s.mode ord .ok s, (clearOpen_answersAtOnce s.mode ord .ok s).wiring hc, rfl⟩

/-- Settles O23: the frame of each of the three commands; CFG's own writes are the wiring, MODE and BITORD. -/
theorem configurationCommandsFrame : Obligations.ConfigurationCommandsFrame := by
  unfold Obligations.ConfigurationCommandsFrame
  intro s t i h hop
  cases i with
  | cfg =>
    have k := execCfg_keeps h
    exact ⟨k.trace, k.replies, k.gpioFault, k.datapath, k.outside, fun hne => absurd rfl hne, nofun, nofun⟩
  | setMode =>
    obtain ⟨k, w, hord⟩ := execSetMode_keeps h
    exact ⟨k.trace, k.replies, k.gpioFault, k.datapath, k.outside,
      fun _ => ⟨w.configured, w.clkPin, w.misoPin, w.mosiPin, w.csPin, w.csAct⟩, fun _ => hord, nofun⟩
  | setOrder =>
    obtain ⟨k, w, hmode⟩ := execSetOrder_keeps h
    exact ⟨k.trace, k.replies, k.gpioFault, k.datapath, k.outside,
      fun _ => ⟨w.configured, w.clkPin, w.misoPin, w.mosiPin, w.csPin, w.csAct⟩, nofun, fun _ => hmode⟩
  | openPins | closePins | xfer | read | write => simp [Instr.opcode] at hop

end Sys2Proof.Machine

/-! SUPPORT. How OPEN and CLOSE end: the whole state after a completed and after a failed run, the releases in
CLOSE_ORDER, and what neither command touches (spec 41_open_close R130 to R134; 60_exceptions R206). -/

namespace Sys2Proof.Machine

/-! ### How a command that issues requests ends -/

theorem Begins.not_idle {i : Instr} {s u : State} (h : Begins i s u) (hw : WellFormed i) : u.seq ≠ .idle := by
  intro hi
  have hp := h.position hw
  simp [SeqSound, hi, h.cmd] at hp

/-- With all its requests completed a command ends with the ISOPEN and the response its position leads to. -/
theorem Issues.completes {i : Instr} {reqs : List GpioRequest} {s u : State} {tape rest : List GpioReply}
    (h : Issues i reqs s u) (hw : WellFormed i) (hpace : s.pace = none) (hr : s.replies = tape ++ rest)
    (hd : AllDone tape) (hl : tape.length = reqs.length) :
    Ended u.runEngine ∧ u.runEngine.isOpen = u.finalOpen ∧ u.runEngine.gpioFault = s.gpioFault ∧
      u.runEngine.replies = rest ∧ u.runEngine.trace = s.trace ++ eventsOf reqs tape ∧
      u.runEngine.responses = u.finalResponses (readAnswers (eventsOf reqs tape)) := by
  obtain ⟨hruns, hbegins, hport, rfl⟩ := h
  rw [runEngine_unbounded (hport.pace.trans hpace)]
  obtain ⟨hseq, htrace, hrep, hfault⟩ := drive_completes _ u tape rest le_rfl (hport.replies.trans hr) hd hl
  obtain ⟨hopen, hresp, hcmd⟩ := drive_outcome _ u tape rest le_rfl (hport.replies.trans hr) hd hl
  exact ⟨⟨hseq, hcmd (hbegins.not_idle hw)⟩, hopen, hfault.trans hport.gpioFault, hrep, hport.trace ▸ htrace, hresp⟩

/-- At its first failed request a command ends with that request's GpioError (R206). -/
theorem Issues.fails {i : Instr} {reqs : List GpioRequest} {s u : State} {tape rest : List GpioReply} {q : GpioRequest}
    (h : Issues i reqs s u) (hpace : s.pace = none) (hr : s.replies = tape ++ .failed :: rest) (hd : AllDone tape)
    (hq : reqs[tape.length]? = some q) :
    Ended u.runEngine ∧ u.runEngine.isOpen = s.isOpen ∧ u.runEngine.gpioFault = true ∧
      u.runEngine.replies = rest ∧ u.runEngine.trace = s.trace ++ eventsOf reqs (tape ++ [.failed]) ∧
      u.runEngine.responses = s.responses ++ [[Status.word (.gpioError q.primitive)]] := by
  obtain ⟨hruns, hbegins, hport, rfl⟩ := h
  rw [runEngine_unbounded (hport.pace.trans hpace)]
  obtain ⟨hseq, hcmd, htrace, hrep, hfault, hopen, hresp⟩ :=
    drive_fails _ u tape rest q le_rfl (hport.replies.trans hr) hd hq
  exact ⟨⟨hseq, hcmd⟩, hopen.trans hbegins.isOpen, hfault, hrep, hport.trace ▸ htrace, hbegins.responses ▸ hresp⟩

/-! ### What OPEN and CLOSE leave alone (R130, R132) -/

/-- What a lifecycle command never touches on a configured engine: what no position touches, and the datapath. -/
structure LifecycleKeeps (s t : State) : Prop where
  seq : SeqKeeps s t
  datapath : SameDatapath s t

theorem begin_lifecycleKeeps {i : Instr} {pos : Seq} {s : State} (h : (s.begin i pos).outsideTransfer) :
    LifecycleKeeps s (s.begin i pos).runEngine where
  seq := SeqKeeps.trans (t := s.begin i pos) (by constructor <;> constructor <;> rfl) (runEngine_keeps _)
  datapath := SameDatapath.trans (t := s.begin i pos) (by constructor <;> rfl) (drive_outsideTransfer _ h)

theorem open_keeps (s : State) : LifecycleKeeps s (s.begin .openPins (.opening .clock)).runEngine :=
  begin_lifecycleKeeps (.inr (.inl ⟨_, rfl⟩))

theorem close_keeps (s : State) : LifecycleKeeps s (s.begin .closePins (.closing .first)).runEngine :=
  begin_lifecycleKeeps (.inr (.inr ⟨_, rfl⟩))

/-- The state a lifecycle command ends in, from the few fields it writes. -/
theorem LifecycleKeeps.ended_eq {s t : State} (k : LifecycleKeeps s t) {isOpen fault : Bool} {rest : List GpioReply}
    {trace : List GpioEvent} {responses : List Message}
    (h : Ended t ∧ t.isOpen = isOpen ∧ t.gpioFault = fault ∧ t.replies = rest ∧ t.trace = trace ∧
      t.responses = responses) :
    t = { s with
      isOpen := isOpen, gpioFault := fault, seq := .idle, cmd := none, replies := rest, trace := trace
      responses := responses } := by
  obtain ⟨⟨hseq, hcmd⟩, rfl, rfl, rfl, rfl, rfl⟩ := h
  obtain ⟨⟨⟨clkPin, misoPin, mosiPin, csPin, csAct, mode, bitOrd⟩, ⟨cmdPort, resetPin, pace, params⟩, configured, mark⟩,
    ⟨rdf, wrf, regN, regK, regI, txb, rxb, regS, res⟩⟩ := k
  rw [← hseq, ← hcmd, ← clkPin, ← misoPin, ← mosiPin, ← csPin, ← csAct, ← mode, ← bitOrd, ← cmdPort, ← resetPin, ← pace,
    ← params, ← configured, ← mark, ← rdf, ← wrf, ← regN, ← regK, ← regI, ← txb, ← rxb, ← regS, ← res]

/-- OPEN and CLOSE are refused in Unconfigured (R205) and run from their first position otherwise. -/
theorem lifecycle_cases {s t : State} {i : Instr} (h : exec i s = .next t) (hi : i = .openPins ∨ i = .closePins) :
    (s.configured = false ∧ t = s.refuse .state) ∨
    (∃ pos, t = (s.begin i pos).runEngine ∧ LifecycleKeeps s t) := by
  cases hc : s.configured with
  | false =>
    obtain rfl | rfl := hi <;>
      exact .inl ⟨rfl, (Host.Outcome.next.inj ((if_neg (by simp [hc])).symm.trans h)).symm⟩
  | true =>
    obtain rfl | rfl := hi
    · obtain rfl := Host.Outcome.next.inj ((open_issues hc).runs.symm.trans h)
      exact .inr ⟨_, rfl, open_keeps s⟩
    · obtain rfl := Host.Outcome.next.inj ((close_issues hc).runs.symm.trans h)
      exact .inr ⟨_, rfl, close_keeps s⟩

/-- Settles O29: a refusal writes only the response and the mark; a run keeps what no position of the two touches. -/
theorem lifecycleCommandsFrame : Obligations.LifecycleCommandsFrame := by
  unfold Obligations.LifecycleCommandsFrame
  intro s t i h hi
  obtain ⟨hc, rfl⟩ | ⟨pos, rfl, k⟩ := lifecycle_cases h hi
  · exact ⟨by constructor <;> rfl, by constructor <;> rfl, refuse_sameOutside .state s, rfl, ⟨[], by simp⟩,
      fun hc' => by simp [hc] at hc'⟩
  · obtain ⟨qs, used, ha⟩ := runEngine_answered (s.begin i pos)
    exact ⟨k.seq.config, k.datapath, k.seq.outside, k.seq.configured, ⟨_, ha.trace⟩, fun _ => k.seq.refusedMark⟩

/-! ### OPEN (R130, R131) -/

/-- Settles O24: the run completes OPEN's list of requests, and only the fields of `ended_eq` are written. -/
theorem openConfiguresPinsAndOpens : Obligations.OpenConfiguresPinsAndOpens := by
  unfold Obligations.OpenConfiguresPinsAndOpens
  intro s tape rest hc hpace hr hd hl
  have h := open_issues hc
  exact h.runs.trans (congrArg _ ((open_keeps s).ended_eq (h.completes rfl hpace hr hd hl)))

/-- Settles O25. -/
theorem openStopsAtTheFailedRequest : Obligations.OpenStopsAtTheFailedRequest := by
  unfold Obligations.OpenStopsAtTheFailedRequest
  intro s tape rest q hc hpace hr hd hq
  have h := open_issues hc
  exact h.runs.trans (congrArg _ ((open_keeps s).ended_eq (h.fails hpace hr hd hq)))

/-! ### CLOSE (R132, R133) -/

/-- Settles O26: the run completes CLOSE's list of releases, and only the fields of `ended_eq` are written. -/
theorem closeReleasesPinsAndCloses : Obligations.CloseReleasesPinsAndCloses := by
  unfold Obligations.CloseReleasesPinsAndCloses
  intro s tape rest hc hpace hr hd hl
  have h := close_issues hc
  exact h.runs.trans (congrArg _ ((close_keeps s).ended_eq (h.completes rfl hpace hr hd hl)))

/-- The pin a configuration gives a role, where present. -/
def State.rolePin (s : State) : Role → Option PinId
  | .miso => s.misoPin
  | .mosi => s.mosiPin
  | .clock => some s.clkPin
  | .select => s.csPin

theorem releaseRequest_eq_map (s : State) (role : Role) :
    s.releaseRequest role = (s.rolePin role).map .release := by
  cases role <;> rfl

theorem closeRequests_primitive {s : State} {q : GpioRequest} (h : q ∈ s.closeRequests) : q.primitive = .release := by
  obtain ⟨role, -, hq⟩ := List.mem_filterMap.mp h
  rw [releaseRequest_eq_map] at hq
  obtain ⟨p, -, rfl⟩ := Option.map_eq_some_iff.mp hq
  rfl

/-- Settles O27: every request of CLOSE is a release, whose GpioError is 0x34 (R200). -/
theorem closeStopsAtTheFailedRelease : Obligations.CloseStopsAtTheFailedRelease := by
  unfold Obligations.CloseStopsAtTheFailedRelease
  intro s tape rest hc hpace hr hd hl
  have h := close_issues hc
  have hend := h.fails hpace hr hd (List.getElem?_eq_getElem hl)
  rw [closeRequests_primitive (List.getElem_mem hl)] at hend
  exact h.runs.trans (congrArg _ ((close_keeps s).ended_eq hend))

/-! ### Every configured pin once (R134) -/

theorem presentPins_length (s : State) :
    s.presentPins.length = 1 + s.csPin.toList.length + s.mosiPin.toList.length + s.misoPin.toList.length := by
  simp only [State.presentPins, List.length_cons, List.length_append]
  omega

/-- OPEN configures each configured pin once: clock first, then client-select, then the data pins. -/
theorem openRequests_pins_perm (s : State) : (s.openRequests.map GpioRequest.pin).Perm s.presentPins := by
  have hpins : s.openRequests.map GpioRequest.pin =
      s.clkPin :: (s.csPin.toList ++ (s.mosiPin.toList ++ s.misoPin.toList)) := by
    simp [State.openRequests, GpioRequest.pin, Function.comp_def]
  rw [hpins]
  exact .cons _ (List.perm_append_comm.trans (List.perm_append_comm.append_right _))

/-- A legal CLOSE_ORDER visits all four roles (R9). -/
theorem CloseOrder.toList_perm {o : CloseOrder} (h : o.wf) : o.toList.Perm [.clock, .miso, .mosi, .select] :=
  (h.subperm fun role _ => by cases role <;> decide).perm_of_length_le le_rfl

/-- CLOSE releases each configured pin once, whatever the order (R134). -/
theorem closeRequests_perm {s : State} (h : s.params.wf) : s.closeRequests.Perm (s.presentPins.map .release) := by
  have hroles : [Role.clock, .miso, .mosi, .select].filterMap s.releaseRequest = s.presentPins.map .release := by
    simp only [State.presentPins, List.filterMap_cons, List.filterMap_nil, State.releaseRequest]
    cases s.misoPin <;> cases s.mosiPin <;> cases s.csPin <;> rfl
  exact hroles ▸ (CloseOrder.toList_perm h).filterMap s.releaseRequest

theorem eventsOf_map_req {qs : List GpioRequest} {tape : List GpioReply} (h : tape.length = qs.length) :
    (eventsOf qs tape).map GpioEvent.req = qs := by
  calc (eventsOf qs tape).map GpioEvent.req
      = (qs.zip tape).map Prod.fst := by rw [eventsOf, ← List.map_uncurry_zip_eq_zipWith, List.map_map]; rfl
    _ = qs := List.map_fst_zip h.ge

theorem eventsOf_length {qs : List GpioRequest} {tape : List GpioReply} (h : tape.length = qs.length) :
    (eventsOf qs tape).length = qs.length := by
  rw [← List.length_map GpioEvent.req, eventsOf_map_req h]

/-- Settles O28: OPEN takes the first half of the replies, CLOSE the second, one for each configured pin. -/
theorem openThenCloseReleasesEveryPinOnce : Obligations.OpenThenCloseReleasesEveryPinOnce := by
  unfold Obligations.OpenThenCloseReleasesEveryPinOnce
  intro s tape hc hwf hpace hr hd hl
  have hopens : s.openRequests.length = s.presentPins.length := by
    simpa using (openRequests_pins_perm s).length_eq
  have hcloses : s.closeRequests.length = s.presentPins.length := by
    simpa using (closeRequests_perm hwf).length_eq
  obtain ⟨first, second, rfl, hfirst, hsecond⟩ : ∃ first second, tape = first ++ second ∧
      first.length = s.openRequests.length ∧ second.length = s.closeRequests.length :=
    ⟨tape.take s.presentPins.length, tape.drop s.presentPins.length, (List.take_append_drop _ _).symm,
      by rw [List.length_take]; omega, by rw [List.length_drop]; omega⟩
  obtain ⟨hdo, hdc⟩ := List.forall_mem_append.mp hd
  exact ⟨presentPins_length s, _, _, eventsOf s.openRequests first, eventsOf s.closeRequests second,
    openConfiguresPinsAndOpens s first second hc hpace hr hdo hfirst,
    closeReleasesPinsAndCloses _ second [] hc hpace (List.append_nil second).symm hdc hsecond, rfl, rfl,
    (eventsOf_length hfirst).trans hopens, (eventsOf_length hsecond).trans hcloses, eventsOf_map_req hfirst, rfl, rfl,
    (eventsOf_map_req hsecond).symm ▸ closeRequests_perm hwf⟩

/-! ### The lines after OPEN, under the holding reading (R55) -/

/-- An event on another pin leaves a line as it was. -/
theorem lineAfter_of_ne {e : GpioEvent} {p : PinId} (h : e.req.pin ≠ p) (held : Option Level) :
    e.lineAfter p held = held := by
  unfold GpioEvent.lineAfter
  split
  case h_1 he _ | h_2 he _ | h_3 he _ => exact if_neg (by rwa [he] at h)
  case h_4 => exact if_neg h
  case h_5 => rfl

theorem lineLevel_append_of_ne {evs more : List GpioEvent} {p : PinId} (h : ∀ e ∈ more, e.req.pin ≠ p) :
    lineLevel (evs ++ more) p = lineLevel evs p := by
  induction more using List.reverseRecOn with
  | nil => rw [List.append_nil]
  | append_singleton more e ih =>
    have he : lineLevel (evs ++ (more ++ [e])) p = e.lineAfter p (lineLevel (evs ++ more) p) := by
      simp [lineLevel]
    rw [he, lineAfter_of_ne (h e (by simp)), ih fun e he => h e (by simp [he])]

/-- A completed event that configures pin p as output sets p's line, where no other event names p. -/
theorem lineLevel_of_cfgOut {evs more : List GpioEvent} {p : PinId} {lv : Level}
    (hmem : { req := .cfgOut p lv, result := .done } ∈ more)
    (hpins : ((more.map GpioEvent.req).map GpioRequest.pin).Nodup) : lineLevel (evs ++ more) p = some lv := by
  obtain ⟨before, after, rfl⟩ := List.append_of_mem hmem
  have hafter : ∀ e ∈ after, e.req.pin ≠ p := by
    simp only [List.map_append, List.map_cons] at hpins
    have hp := (List.nodup_cons.mp hpins.of_append_right).1
    exact fun e he hpin => hp (List.mem_map.mpr ⟨e.req, List.mem_map_of_mem he, hpin⟩)
  have hset : lineLevel (evs ++ before ++ [{ req := .cfgOut p lv, result := .done }]) p = some lv := by
    simp [lineLevel, GpioEvent.lineAfter]
  simpa using (lineLevel_append_of_ne hafter).trans hset

/-- Every request has its event where the agent completes them all. -/
theorem event_mem_eventsOf {qs : List GpioRequest} {tape : List GpioReply} {q : GpioRequest} (hd : AllDone tape)
    (hl : tape.length = qs.length) (hq : q ∈ qs) : ∃ lv, q.event (.done lv) ∈ eventsOf qs tape := by
  obtain ⟨k, hk, rfl⟩ := List.getElem_of_mem hq
  have hkt : k < tape.length := hl ▸ hk
  cases hr : tape[k] with
  | failed => exact absurd hr (hd _ (List.getElem_mem hkt))
  | done lv => exact ⟨lv, List.mem_of_getElem (i := k) (h := by rwa [eventsOf_length hl]) (by simp [eventsOf, hr])⟩

/-- Settles O45: OPEN names each distinct pin once, so the level it configures there is the one that stays. -/
theorem openLeavesTheLinesAtRest : Obligations.OpenLeavesTheLinesAtRest := by
  unfold Obligations.OpenLeavesTheLinesAtRest
  intro s tape rest hc hpace hdistinct hr hd hl
  have hpins : (((eventsOf s.openRequests tape).map GpioEvent.req).map GpioRequest.pin).Nodup := by
    rw [eventsOf_map_req hl]
    exact (openRequests_pins_perm s).nodup_iff.mpr hdistinct
  have hshows : ∀ p lv, .cfgOut p lv ∈ s.openRequests →
      lineLevel (s.trace ++ eventsOf s.openRequests tape) p = some lv := by
    intro p lv hmem
    obtain ⟨_, he⟩ := event_mem_eventsOf hd hl hmem
    exact lineLevel_of_cfgOut he hpins
  refine ⟨_, openConfiguresPinsAndOpens s tape rest hc hpace hr hd hl, hshows _ _ ?_, fun p hp => hshows _ _ ?_,
    fun p hp => hshows _ _ ?_⟩
  · simp [State.openRequests]
  · simp [State.openRequests, hp]
  · simp [State.openRequests, hp]

end Sys2Proof.Machine

/-! SUPPORT. The statements about a transfer's positions and checks: which bit a position drives and samples, what follows
what inside a bit, and the preconditions (spec 42_transfer R151, R157 to R160). -/

namespace Sys2Proof.Machine

/-! ### The bit of a position (R29, R30, R160) -/

theorem bitIndex_lt (ord : BitOrder) (i : Fin 8) : bitIndex ord i < 8 := by
  cases ord <;> simp only [bitIndex] <;> omega

/-- The sample of a position lands in the bit its index names (R30). -/
theorem readMask_eq_twoPow (ord : BitOrder) (i : Fin 8) : readMask ord i = BitVec.twoPow 8 (bitIndex ord i) := by
  cases ord <;> revert i <;> decide

theorem accumulate_getLsbD (ord : BitOrder) (b : Byte) (i : Fin 8) (lv : Level) {j : Nat} (hj : j < 8) :
    (accumulate ord b i lv).getLsbD j = if j = bitIndex ord i then lv.toBit else b.getLsbD j := by
  have hi := bitIndex_lt ord i
  cases lv with
  | high =>
    simp only [accumulate, readMask_eq_twoPow, BitVec.getLsbD_or, BitVec.getLsbD_twoPow, Level.toBit]
    split <;> simp <;> omega
  | low =>
    simp only [accumulate, readMask_eq_twoPow, BitVec.getLsbD_and, BitVec.getLsbD_not, BitVec.getLsbD_twoPow, Level.toBit]
    split <;> simp <;> omega

/-- Settles O16. -/
theorem drivenAndSampledBitAgree : Obligations.DrivenAndSampledBitAgree := by
  unfold Obligations.DrivenAndSampledBitAgree
  exact fun ord b i lv => ⟨bitLevel_eq_ofBit ord b i, fun _ hj => accumulate_getLsbD ord b i lv hj⟩

/-! ### The positions of a bit (R157, R158) -/

theorem advance_acc (s : State) (a : Option Level) : (s.goto (.bit .acc)).advance a = (s.goto (.bit .acc)).accStep := rfl

theorem request_bitMosi (s : State) :
    (s.goto (.bit .mosi)).request =
      if s.wrf then s.mosiPin.map fun p => .write p (bitLevel s.bitOrd s.txb s.regI) else none := rfl

theorem request_sampleLead (s : State) :
    (s.goto (.bit .sampleLead)).request = if s.rdf && !s.cpha then s.misoPin.map .read else none := rfl

theorem request_sampleTrail (s : State) :
    (s.goto (.bit .sampleTrail)).request = if s.rdf && s.cpha then s.misoPin.map .read else none := rfl

/-- Before position 7, step 6 goes on with the next bit of the same byte. -/
theorem accStep_next_bit {s : State} (hi : s.regI.val < 7) :
    s.accStep.seq = .bit .mosi ∧ s.accStep.regI.val = s.regI.val + 1 ∧ s.accStep.regK = s.regK := by
  obtain ⟨-, h⟩ | ⟨hn, -⟩ := accStep_cases s
  · rw [h]
    exact ⟨rfl, Fin.val_add_one_of_lt' (by omega), rfl⟩
  · exact absurd hi hn

theorem regK_succ {s : State} (hk : s.regK.toNat + 1 < s.regN.toNat) : (s.regK + 1).toNat = s.regK.toNat + 1 := by
  have hn := s.regN.isLt
  exact BitVec.toNat_add_of_lt (by simpa using by omega)

/-- After position 7, step 6 goes on with bit 0 of the next byte. -/
theorem accStep_next_byte {s : State} (hi : s.regI.val = 7) (hk : s.regK.toNat + 1 < s.regN.toNat) :
    s.accStep.seq = .bit .mosi ∧ s.accStep.regI = 0 ∧ s.accStep.regK.toNat = s.regK.toNat + 1 := by
  obtain ⟨hn, -⟩ | ⟨-, h⟩ := accStep_cases s
  · omega
  · obtain ⟨-, h'⟩ | ⟨hn, -⟩ := endByte_cases { s with rxb := accumulate s.bitOrd s.rxb s.regI s.regS }
    · rw [h, h']
      exact ⟨rfl, rfl, regK_succ hk⟩
    · exact absurd hk hn

/-- After position 7 of the last byte, step 6 goes on with the deassert of client-select. -/
theorem accStep_last {s : State} (hi : s.regI.val = 7) (hk : ¬ s.regK.toNat + 1 < s.regN.toNat) :
    s.accStep.seq = .csOff := by
  obtain ⟨hn, -⟩ | ⟨-, h⟩ := accStep_cases s
  · omega
  · obtain ⟨hn, -⟩ | ⟨-, h'⟩ := endByte_cases { s with rxb := accumulate s.bitOrd s.rxb s.regI s.regS }
    · exact absurd hn hk
    · rw [h, h']
      rfl

/-- With read enabled the sub-step that reads MISO is the one after the edge CPHA names, and no other (R158). -/
theorem request_eq_read_iff {s : State} {p : PinId} (hr : s.rdf = true) (hm : s.misoPin = some p) (x : BitStep)
    (q : PinId) :
    (s.goto (.bit x)).request = some (.read q) ↔
      (q = p ∧ ((x = .sampleLead ∧ s.cpha = false) ∨ (x = .sampleTrail ∧ s.cpha = true))) := by
  cases x with
  | sampleLead =>
    rw [request_sampleLead, hr, hm]
    cases s.cpha <;> simp [eq_comm (a := q)]
  | sampleTrail =>
    rw [request_sampleTrail, hr, hm]
    cases s.cpha <;> simp [eq_comm (a := q)]
  | mosi =>
    rw [request_bitMosi]
    cases s.wrf <;> cases s.mosiPin <;> simp
  | _ => simp [State.request]

/-- Settles O17: each position's request and successor by its definition, step 6 by the position it ends, and the one
sample by CPHA. -/
theorem oneSamplePerBitAfterItsEdge : Obligations.OneSamplePerBitAfterItsEdge := by
  unfold Obligations.OneSamplePerBitAfterItsEdge
  refine fun s a => ⟨rfl, ⟨rfl, rfl⟩, rfl, ⟨rfl, rfl⟩, rfl, ?step6, fun p hr hm => ⟨request_eq_read_iff hr hm, ?_, ?_⟩⟩
  case step6 =>
    rintro t rfl
    rw [advance_acc]
    exact ⟨accStep_next_bit, accStep_next_byte, accStep_last⟩
  · exact fun hc => by simp [request_sampleTrail, hc]
  · exact fun hc => by simp [request_sampleLead, hc]

/-! ### The preconditions (R151, R207) -/

theorem xferCheck_of_closed {s : State} (ho : s.isOpen = false) (rd wr : Bool) :
    s.xferCheck rd wr = some .notInitialized := by
  simp [State.xferCheck, ho]

theorem xferCheck_of_no_miso {s : State} (ho : s.isOpen = true) (hm : s.misoPin = none) (wr : Bool) :
    s.xferCheck true wr = some (.missingPin .input) := by
  simp [State.xferCheck, ho, hm]

theorem xferCheck_of_no_mosi {s : State} {rd : Bool} (ho : s.isOpen = true)
    (hi : rd = true → s.misoPin.isSome = true) (hm : s.mosiPin = none) :
    s.xferCheck rd true = some (.missingPin .output) := by
  have hin : (rd && s.misoPin.isNone) = false := by
    cases rd with
    | false => rfl
    | true => simpa using hi rfl
  simp [State.xferCheck, ho, hin, hm]

/-- A failed check of an engine at rest leaves only its response (R151). -/
theorem exec_transfer_of_failed_check {s : State} {i : Instr} {rd wr : Bool} {st : Status}
    (he : transferEnables i = some (rd, wr)) (hc : s.configured = true) (hs : s.seq = .idle) (hcmd : s.cmd = none)
    (hx : s.xferCheck rd wr = some st) :
    exec i s = .next { s with responses := s.responses ++ [[st.word]] } := by
  rw [exec_transfer he, State.transfer, if_pos hc, hx]
  exact congrArg _ (respond_at_rest hs hcmd st [])

/-- Settles O30. -/
theorem transferPreconditionsInOrder : Obligations.TransferPreconditionsInOrder := by
  unfold Obligations.TransferPreconditionsInOrder
  intro s i rd wr he hc hs hcmd
  refine ⟨fun ho => ?closed, fun ho hrd hm => ?noMiso, fun ho hi hwr hm => ?noMosi⟩
  case closed => exact exec_transfer_of_failed_check he hc hs hcmd (xferCheck_of_closed ho rd wr)
  case noMiso =>
    subst hrd
    exact exec_transfer_of_failed_check he hc hs hcmd (xferCheck_of_no_miso ho hm wr)
  case noMosi =>
    subst hwr
    exact exec_transfer_of_failed_check he hc hs hcmd (xferCheck_of_no_mosi ho hi hm)

end Sys2Proof.Machine

/-! SUPPORT. How a transfer ends when every request completes: its requests and their number, its response, and what it
leaves unchanged (spec 42_transfer R150 to R157, R162 to R164; 30_encoding R80). -/

namespace Sys2Proof.Machine

/-! ### The requests of a transfer (R152, R156, R157) -/

/-- A bit's requests: the two clock edges, with write enabled a write of MOSI, with read enabled a read of MISO. -/
theorem mem_bitRequests {s : State} {rd wr : Bool} {b : Byte} {i : Fin 8} {q : GpioRequest}
    (h : q ∈ s.bitRequests rd wr b i) :
    (wr = true ∧ ∃ p lv, s.mosiPin = some p ∧ q = .write p lv) ∨ (∃ lv, q = .write s.clkPin lv) ∨
      (rd = true ∧ ∃ p, s.misoPin = some p ∧ q = .read p) := by
  have hsample {c : Bool} (hq : q ∈ if rd && c then s.misoPin.toList.map GpioRequest.read else []) :
      rd = true ∧ ∃ p, s.misoPin = some p ∧ q = .read p := by
    obtain ⟨⟨hrd, -⟩, p, hp, rfl⟩ : (rd = true ∧ c = true) ∧ ∃ p, s.misoPin = some p ∧ .read p = q := by
      simpa using hq
    exact ⟨hrd, p, hp, rfl⟩
  simp only [State.bitRequests, List.mem_append, List.mem_singleton] at h
  obtain (((hq | hq) | hq) | hq) | hq := h
  · obtain ⟨hwr, p, hp, rfl⟩ : wr = true ∧ ∃ p, s.mosiPin = some p ∧ .write p _ = q := by simpa using hq
    exact .inl ⟨hwr, p, _, hp, rfl⟩
  · exact .inr (.inl ⟨_, hq⟩)
  · exact .inr (.inr (hsample hq))
  · exact .inr (.inl ⟨_, hq⟩)
  · exact .inr (.inr (hsample hq))

/-- A transfer's requests: the requests of its bits, and writes of client-select. -/
theorem mem_transferRequests {s : State} {rd wr : Bool} {data : List Byte} {q : GpioRequest}
    (h : q ∈ s.transferRequests rd wr data) :
    (∃ b i, q ∈ s.bitRequests rd wr b i) ∨ ∃ p lv, s.csPin = some p ∧ q = .write p lv := by
  have hselect {lv : Level} (hq : q ∈ s.csPin.toList.map (GpioRequest.write · lv)) :
      ∃ p lv, s.csPin = some p ∧ q = .write p lv := by
    obtain ⟨p, hp, rfl⟩ := List.mem_map.mp hq
    exact ⟨p, lv, Option.mem_toList.mp hp, rfl⟩
  simp only [State.transferRequests, List.mem_append] at h
  obtain (hq | hq) | hq := h
  · exact .inr (hselect hq)
  · obtain ⟨b, -, hb⟩ := List.mem_flatMap.mp hq
    obtain ⟨i, -, hi⟩ := List.mem_flatMap.mp hb
    exact .inl ⟨b, i, hi⟩
  · exact .inr (hselect hq)

/-- Without read enabled no request is a read (R153). -/
theorem not_read_of_mem_transferRequests {s : State} {wr : Bool} {data : List Byte} {q : GpioRequest}
    (h : q ∈ s.transferRequests false wr data) (p : PinId) : q ≠ .read p := by
  obtain ⟨b, i, hb⟩ | ⟨_, _, -, rfl⟩ := mem_transferRequests h
  · obtain ⟨-, _, _, -, rfl⟩ | ⟨_, rfl⟩ | ⟨hrd, -⟩ := mem_bitRequests hb
    · nofun
    · nofun
    · cases hrd
  · nofun

theorem bitRequests_length {s : State} {rd wr : Bool} (h : TransferReady s rd wr) (b : Byte) (i : Fin 8) :
    (s.bitRequests rd wr b i).length = 2 + wr.toNat + rd.toNat := by
  have hread : (if rd then s.misoPin.toList.length else 0) = rd.toNat := by
    cases rd with
    | false => rfl
    | true => simp [h.miso rfl]
  have hwrite : (if wr then s.mosiPin.toList.length else 0) = wr.toNat := by
    cases wr with
    | false => rfl
    | true => simp [h.mosi rfl]
  have hcount : (s.bitRequests rd wr b i).length =
      (if wr then s.mosiPin.toList.length else 0) + 2 + (if rd then s.misoPin.toList.length else 0) := by
    cases hc : s.cpha <;> simp [State.bitRequests, hc, apply_ite List.length] <;> omega
  omega

theorem byteRequests_length {s : State} {rd wr : Bool} (h : TransferReady s rd wr) (b : Byte) :
    (s.byteRequests rd wr b).length = 8 * (2 + wr.toNat + rd.toNat) := by
  simp only [State.byteRequests, List.length_flatMap, bitRequests_length h, List.map_const', List.sum_replicate,
    List.length_finRange, smul_eq_mul]

theorem transferRequests_length {s : State} {rd wr : Bool} (h : TransferReady s rd wr) (data : List Byte) :
    (s.transferRequests rd wr data).length =
      2 * s.csPin.toList.length + 8 * data.length * (2 + wr.toNat + rd.toNat) := by
  simp only [State.transferRequests, List.length_append, List.length_map, List.length_flatMap, byteRequests_length h,
    List.map_const', List.sum_replicate, smul_eq_mul]
  ring

/-! ### The result (R153, R157, R160) -/

/-- Only a read is answered with a level (R15). -/
theorem resultOf_ne_answer {q : GpioRequest} (h : ∀ p, q ≠ .read p) (r : GpioReply) (lv : Level) :
    q.resultOf r ≠ .answer lv := by
  cases q with
  | read p => exact absurd rfl (h p)
  | _ => cases r <;> nofun

/-- Events of requests that are no reads bring no answer. -/
theorem readAnswers_eventsOf_of_no_read {qs : List GpioRequest} (tape : List GpioReply)
    (h : ∀ q ∈ qs, ∀ p, q ≠ .read p) : readAnswers (eventsOf qs tape) = [] := by
  refine List.filterMap_eq_nil_iff.mpr fun e he => ?_
  obtain ⟨k, hk, rfl⟩ := List.getElem_of_mem he
  have hq := h _ (req_mem_of_mem_eventsOf he)
  simp only [eventsOf, List.getElem_zipWith] at hq ⊢
  split
  case h_1 hanswer => exact absurd hanswer (resultOf_ne_answer hq _ _)
  case h_2 => rfl

/-- The bytes a transfer gathers are those Requests.lean makes of the answers; without read there is no answer. -/
theorem gatherBytes_eq_sampledBytes {s : State} {rd wr : Bool} (data : List Byte) (tape : List GpioReply) (n : Nat) :
    gatherBytes s.bitOrd rd n (readAnswers (eventsOf (s.transferRequests rd wr data) tape)) =
      sampledBytes s.bitOrd n (readAnswers (eventsOf (s.transferRequests rd wr data) tape)) := by
  cases rd with
  | true => exact gatherBytes_sampled _ _ _
  | false =>
    rw [readAnswers_eventsOf_of_no_read tape fun _ => not_read_of_mem_transferRequests, gatherBytes_silent,
      sampledBytes_silent]

theorem beginTransfer_finalResponses {s : State} {i : Instr} {rd wr : Bool} (hw : WellFormed i)
    (h : TransferReady s rd wr) (ans : List Level) :
    (s.beginTransfer i rd wr (transferCount i)).finalResponses ans =
      s.responses ++
        [0 :: packBytes (resultBytes (some i) (gatherBytes s.bitOrd rd (transferPayload i).length ans))] := by
  have hsamples : (s.beginTransfer i rd wr (transferCount i)).samples = rd := by
    cases rd with
    | false => rfl
    | true => exact h.miso rfl
  have hfinal : (s.beginTransfer i rd wr (transferCount i)).finalRes ans =
      gatherBytes s.bitOrd (s.beginTransfer i rd wr (transferCount i)).samples (transferCount i).toNat ans := rfl
  rw [hsamples, transferCount_toNat hw] at hfinal
  rw [← hfinal]
  rfl

/-! ### A transfer whose requests all complete -/

/-- From `s` to `t` the transfer `i` ran to its end: its requests took the replies `tape`, one event each, and the response
is OK with the bytes the answers make (R152, R157, R80). -/
structure Transferred (i : Instr) (rd wr : Bool) (tape rest : List GpioReply) (s t : State) : Prop where
  trace : t.trace = s.trace ++ eventsOf (s.transferRequests rd wr (transferPayload i)) tape
  responses : t.responses = s.responses ++ [0 :: packBytes (resultBytes (some i) (sampledBytes s.bitOrd
    (transferPayload i).length (readAnswers (eventsOf (s.transferRequests rd wr (transferPayload i)) tape))))]
  replies : t.replies = rest
  gpioFault : t.gpioFault = s.gpioFault
  refusedMark : t.refusedMark = s.refusedMark
  ended : Ended t
  keeps : TransferKeeps s t

theorem transfer_completes {s : State} {i : Instr} {rd wr : Bool} {tape rest : List GpioReply}
    (he : transferEnables i = some (rd, wr)) (hw : WellFormed i) (h : TransferReady s rd wr) (hpace : s.pace = none)
    (hr : s.replies = tape ++ rest) (hd : AllDone tape)
    (hl : tape.length = (s.transferRequests rd wr (transferPayload i)).length) :
    ∃ t, exec i s = .next t ∧ Transferred i rd wr tape rest s t := by
  have hi := transfer_issues he hw h
  obtain ⟨hended, hopen, hfault, hrest, htrace, hresp⟩ := hi.completes hw hpace hr hd hl
  rw [beginTransfer_finalResponses hw h, gatherBytes_eq_sampledBytes] at hresp
  have k := hi.begins.keeps.trans (runEngine_keeps _)
  exact ⟨_, hi.runs, htrace, hresp, hrest, hfault, k.refusedMark, hended, k.config, k.outside, k.configured, hopen⟩

/-- Settles O31. -/
theorem xferCompletesWithTheSampledBytes : Obligations.XferCompletesWithTheSampledBytes := by
  unfold Obligations.XferCompletesWithTheSampledBytes
  intro s rd wr data tape rest hw h hpace hr hd hl
  obtain ⟨t, ht, k⟩ := transfer_completes (i := .xfer rd wr data) rfl hw h hpace hr hd hl
  exact ⟨t, ht, k.trace, k.responses, k.replies, k.gpioFault, k.refusedMark, k.ended, k.keeps⟩

/-- Settles O32. -/
theorem readCompletesWithTheSampledBytes : Obligations.ReadCompletesWithTheSampledBytes := by
  unfold Obligations.ReadCompletesWithTheSampledBytes
  intro s count tape rest h hpace hr hd hl
  obtain ⟨t, ht, k⟩ := transfer_completes (i := .read count) rfl rfl h hpace hr hd hl
  have hresp := k.responses
  rw [show (transferPayload (.read count)).length = count.toNat from List.length_replicate] at hresp
  exact ⟨t, ht, k.trace, hresp, k.replies, k.gpioFault, k.refusedMark, k.ended, k.keeps⟩

/-- Settles O33. -/
theorem writeCompletesWithStatusOnly : Obligations.WriteCompletesWithStatusOnly := by
  unfold Obligations.WriteCompletesWithStatusOnly
  intro s data tape rest hw h hpace hr hd hl
  obtain ⟨t, ht, k⟩ := transfer_completes (i := .write data) rfl hw h hpace hr hd hl
  exact ⟨t, ht, k.trace, k.responses, k.replies, k.gpioFault, k.refusedMark, k.ended, k.keeps⟩

/-- Settles O38: the replies are as many as the transfer's requests. -/
theorem transferEventCounts : Obligations.TransferEventCounts := by
  unfold Obligations.TransferEventCounts
  intro s i rd wr tape rest he hw h hpace hr hd hl
  refine ⟨fun b p => ⟨bitRequests_length h b p, byteRequests_length h b⟩, ?_⟩
  have hl' := hl.trans (transferRequests_length h (transferPayload i)).symm
  obtain ⟨t, ht, k⟩ := transfer_completes he hw h hpace hr hd hl'
  refine ⟨t, ht, k.ended, k.gpioFault, k.replies, ?_⟩
  rw [k.trace, List.length_append, eventsOf_length hl', transferRequests_length h]
  omega

/-! ### A transfer of no bytes (R155) -/

theorem wellFormed_of_empty_payload {i : Instr} (h : transferPayload i = []) : WellFormed i := by
  cases i with
  | xfer _ _ data | write data =>
    obtain rfl : data = [] := h
    rfl
  | _ => rfl

/-- Without bytes only client-select is written: asserted, then deasserted. -/
theorem eventsOf_empty_transfer {s : State} (rd wr : Bool) {tape : List GpioReply} (hd : AllDone tape)
    (hl : tape.length = 2 * s.csPin.toList.length) :
    eventsOf (s.transferRequests rd wr []) tape = s.csPin.toList.flatMap fun p =>
      [⟨.write p s.csAct, .done⟩, ⟨.write p s.csAct.flip, .done⟩] := by
  cases hcs : s.csPin with
  | none => simp [State.transferRequests, hcs]
  | some p =>
    rw [hcs] at hl
    obtain ⟨r, r', rfl⟩ := List.length_eq_two.mp hl
    obtain ⟨⟨lv, rfl⟩, hd'⟩ := allDone_cons hd
    obtain ⟨⟨lv', rfl⟩, -⟩ := allDone_cons hd'
    simp [State.transferRequests, hcs, GpioRequest.event, GpioRequest.resultOf]

theorem resultBytes_nil (cmd : Option Instr) : resultBytes cmd [] = [] := by
  unfold resultBytes
  split <;> rfl

/-- Settles O39. -/
theorem emptyTransferOnlyTogglesSelect : Obligations.EmptyTransferOnlyTogglesSelect := by
  unfold Obligations.EmptyTransferOnlyTogglesSelect
  intro s i rd wr tape rest he hempty h hpace hr hd hl
  have hl' : tape.length = (s.transferRequests rd wr (transferPayload i)).length := by
    rw [transferRequests_length h, hempty, hl]
    simp
  obtain ⟨t, ht, k⟩ := transfer_completes he (wellFormed_of_empty_payload hempty) h hpace hr hd hl'
  have htrace := k.trace
  have hresp := k.responses
  rw [hempty, eventsOf_empty_transfer rd wr hd hl] at htrace
  rw [hempty, show sampledBytes s.bitOrd ([] : List Byte).length _ = [] from rfl, resultBytes_nil] at hresp
  exact ⟨t, ht, htrace, hresp, k.ended, k.keeps⟩

/-! ### A transfer without read (R153) -/

/-- Settles O40. -/
theorem readDisabledTransferReturnsZeros : Obligations.ReadDisabledTransferReturnsZeros := by
  unfold Obligations.ReadDisabledTransferReturnsZeros
  intro s wr data tape rest hw h hpace hr hd hl
  obtain ⟨t, ht, k⟩ := transfer_completes (i := .xfer false wr data) rfl hw h hpace hr hd hl
  have hresp := k.responses
  rw [readAnswers_eventsOf_of_no_read tape fun _ => not_read_of_mem_transferRequests, sampledBytes_silent] at hresp
  exact ⟨t, _, ht, k.trace, fun e he => not_read_of_mem_transferRequests (req_mem_of_mem_eventsOf he), hresp⟩

end Sys2Proof.Machine

/-! SUPPORT. What a transfer keeps however it ends, and two transfers side by side that differ in their command (spec
30_encoding R83; 42_transfer R150, R154, R162, R163, R166). -/

namespace Sys2Proof.Machine

/-! ### What a running transfer keeps (R154, R166) -/

/-- SEQ is in no position of OPEN or CLOSE. -/
def State.outsideLifecycle (s : State) : Prop := (∀ j, s.seq ≠ .opening j) ∧ ∀ j, s.seq ≠ .closing j

/-- From `s` to `t` a transfer ran, or ended: ISOPEN and WRF are as they were, and SEQ came into no lifecycle position. -/
structure TransferRuns (s t : State) : Prop where
  isOpen : t.isOpen = s.isOpen
  wrf : t.wrf = s.wrf
  position : t.outsideLifecycle

theorem TransferRuns.trans {s t u : State} (h : TransferRuns s t) (k : TransferRuns t u) : TransferRuns s u :=
  ⟨k.isOpen.trans h.isOpen, k.wrf.trans h.wrf, k.position⟩

theorem endByte_runs (s : State) : TransferRuns s s.endByte := by
  obtain ⟨-, h⟩ | ⟨-, h⟩ := endByte_cases s <;> rw [h] <;> exact ⟨rfl, rfl, nofun, nofun⟩

theorem accStep_runs (s : State) : TransferRuns s s.accStep := by
  obtain ⟨-, h⟩ | ⟨-, h⟩ := accStep_cases s <;> rw [h]
  · exact ⟨rfl, rfl, nofun, nofun⟩
  · exact { endByte_runs { s with rxb := accumulate s.bitOrd s.rxb s.regI s.regS } with }

theorem advance_runs {s : State} (h : s.outsideLifecycle) (a : Option Level) : TransferRuns s (s.advance a) := by
  cases hs : s.seq with
  | idle => simpa only [State.advance, hs] using ⟨rfl, rfl, h⟩
  | opening j => exact absurd hs (h.1 j)
  | closing j => exact absurd hs (h.2 j)
  | csOn =>
    simp only [State.advance, hs]
    split <;> exact ⟨rfl, rfl, nofun, nofun⟩
  | bit x =>
    cases x <;> simp only [State.advance, hs]
    case acc => exact accStep_runs s
    all_goals exact ⟨rfl, rfl, nofun, nofun⟩
  | csOff | respond =>
    simp only [State.advance, hs]
    exact ⟨rfl, rfl, nofun, nofun⟩

theorem seqStep_runs {s : State} (h : s.outsideLifecycle) : TransferRuns s s.seqStep := by
  obtain ⟨-, e⟩ | ⟨q, -, -, e⟩ | ⟨q, lv, rest, -, -, e⟩ | ⟨q, rest, -, -, e⟩ := seqStep_cases s <;> rw [e]
  · exact advance_runs h none
  · exact ⟨rfl, rfl, h⟩
  · exact { advance_runs (s := s.record q (.done lv) rest) h (q.answerOf lv) with }
  · exact ⟨rfl, rfl, nofun, nofun⟩

theorem runEngine_runs {s : State} (h : s.outsideLifecycle) : TransferRuns s s.runEngine :=
  drive_induction (P := TransferRuns s) (fun _ _ k => k.trans (seqStep_runs k.position)) _ s ⟨rfl, rfl, h⟩

theorem beginTransfer_runs (i : Instr) (rd wr : Bool) (n : Word) (s : State) :
    TransferRuns (s.beginTransfer i rd wr n) (s.beginTransfer i rd wr n).runEngine :=
  runEngine_runs ⟨nofun, nofun⟩

/-! ### The frame of a transfer -/

theorem refuse_transferKeeps (cause : RefusedCause) (s : State) : TransferKeeps s (s.refuse cause) :=
  ⟨by constructor <;> rfl, refuse_sameOutside cause s, rfl, rfl⟩

theorem raise_transferKeeps (st : Status) (s : State) : TransferKeeps s (s.raise st) :=
  ⟨by constructor <;> rfl, raise_sameOutside st s, rfl, rfl⟩

theorem beginTransfer_seqKeeps (i : Instr) (rd wr : Bool) (n : Word) (s : State) :
    SeqKeeps s (s.beginTransfer i rd wr n).runEngine :=
  SeqKeeps.trans (t := s.beginTransfer i rd wr n) (by constructor <;> constructor <;> rfl) (runEngine_keeps _)

theorem transfer_frame (i : Instr) (rd wr : Bool) (n : Word) (s : State) :
    TransferKeeps s (s.transfer i rd wr n) ∧ (∃ evs, (s.transfer i rd wr n).trace = s.trace ++ evs) ∧
      (s.configured = true → (s.transfer i rd wr n).refusedMark = s.refusedMark) := by
  obtain ⟨hc, h⟩ | ⟨st, -, -, h⟩ | ⟨-, -, h⟩ := transfer_cases i rd wr n s <;> rw [h]
  · exact ⟨refuse_transferKeeps .state s, ⟨[], by simp⟩, fun hc' => by simp [hc] at hc'⟩
  · exact ⟨raise_transferKeeps st s, ⟨[], by simp⟩, fun _ => rfl⟩
  · have k := beginTransfer_seqKeeps i rd wr n s
    obtain ⟨qs, used, ha⟩ := runEngine_answered (s.beginTransfer i rd wr n)
    exact ⟨⟨k.config, k.outside, k.configured, (beginTransfer_runs i rd wr n s).isOpen⟩, ⟨_, ha.trace⟩,
      fun _ => k.refusedMark⟩

/-- Settles O36. -/
theorem transferCommandsFrame : Obligations.TransferCommandsFrame := by
  unfold Obligations.TransferCommandsFrame
  intro s t i h hi
  obtain ⟨⟨rd, wr⟩, he⟩ := Option.isSome_iff_exists.mp hi
  obtain rfl := Host.Outcome.next.inj ((exec_transfer he s).symm.trans h)
  exact transfer_frame i rd wr _ s

/-- Settles O37: the engine state is read off CONFIGURED and ISOPEN, which every transfer keeps. -/
theorem transfersKeepTheEngineState : Obligations.TransfersKeepTheEngineState := by
  unfold Obligations.TransfersKeepTheEngineState
  intro s i hi
  obtain ⟨⟨rd, wr⟩, he⟩ := Option.isSome_iff_exists.mp hi
  obtain ⟨k, -⟩ := transfer_frame i rd wr (transferCount i) s
  exact ⟨_, exec_transfer he s, by simp only [State.engineState, k.configured, k.isOpen]⟩

/-! ### The pins of a transfer without write (R154) -/

/-- `p` is the clock pin, the MISO pin or the client-select pin. -/
def State.NonMosiPin (s : State) (p : PinId) : Prop := p = s.clkPin ∨ s.misoPin = some p ∨ s.csPin = some p

theorem SeqKeeps.nonMosiPin_iff {s t : State} (h : SeqKeeps s t) (p : PinId) : t.NonMosiPin p ↔ s.NonMosiPin p := by
  simp only [State.NonMosiPin, h.config.clkPin, h.config.misoPin, h.config.csPin]

theorem request_nonMosiPin {s : State} {q : GpioRequest} (h : s.outsideLifecycle) (hw : s.wrf = false)
    (hq : s.request = some q) : s.NonMosiPin q.pin := by
  have hselect {lv : Level} (hq : s.csPin.map (GpioRequest.write · lv) = some q) : s.NonMosiPin q.pin := by
    obtain ⟨p, hp, rfl⟩ := Option.map_eq_some_iff.mp hq
    exact .inr (.inr hp)
  have hsample {c : Bool} (hq : (if c then s.misoPin.map GpioRequest.read else none) = some q) :
      s.NonMosiPin q.pin := by
    obtain ⟨-, hq⟩ := Option.ite_none_right_eq_some.mp hq
    obtain ⟨p, hp, rfl⟩ := Option.map_eq_some_iff.mp hq
    exact .inr (.inl hp)
  cases hs : s.seq with
  | opening j => exact absurd hs (h.1 j)
  | closing j => exact absurd hs (h.2 j)
  | bit x =>
    cases x <;> simp only [State.request, hs, hw] at hq
    case mosi | acc => cases hq
    case clkOn | clkOff => exact .inl (Option.some.inj hq ▸ rfl)
    case sampleLead | sampleTrail => exact hsample hq
  | csOn | csOff =>
    simp only [State.request, hs] at hq
    exact hselect hq
  | idle | respond => simp [State.request, hs] at hq

/-- From `s` to `t` only events on other pins than MOSI were added. -/
def MosiUntouched (s t : State) : Prop := ∃ evs, t.trace = s.trace ++ evs ∧ ∀ e ∈ evs, s.NonMosiPin e.req.pin

theorem MosiUntouched.of_same_trace {s t : State} (h : t.trace = s.trace) : MosiUntouched s t :=
  ⟨[], by simp [h], by simp⟩

theorem MosiUntouched.trans {s t u : State} (h : MosiUntouched s t) (k : MosiUntouched t u) (hk : SeqKeeps s t) :
    MosiUntouched s u := by
  obtain ⟨evs, he, hpins⟩ := h
  obtain ⟨more, hm, hmore⟩ := k
  refine ⟨evs ++ more, by rw [hm, he, List.append_assoc], fun e hmem => ?_⟩
  obtain hmem | hmem := List.mem_append.mp hmem
  · exact hpins e hmem
  · exact (hk.nonMosiPin_iff _).mp (hmore e hmem)

theorem seqStep_mosiUntouched {s : State} (h : s.outsideLifecycle) (hw : s.wrf = false) :
    MosiUntouched s s.seqStep := by
  obtain ⟨-, e⟩ | ⟨q, -, -, e⟩ | ⟨q, lv, rest, hq, -, e⟩ | ⟨q, rest, hq, -, e⟩ := seqStep_cases s <;> rw [e]
  · exact .of_same_trace (by simp)
  · exact .of_same_trace rfl
  · exact ⟨[q.event (.done lv)], by simp, List.forall_mem_singleton.mpr (request_nonMosiPin h hw hq)⟩
  · exact ⟨[q.event .failed], by simp, List.forall_mem_singleton.mpr (request_nonMosiPin h hw hq)⟩

theorem runEngine_mosiUntouched {s : State} (h : s.outsideLifecycle) (hw : s.wrf = false) :
    MosiUntouched s s.runEngine := by
  refine (drive_induction (P := fun t => TransferRuns s t ∧ SeqKeeps s t ∧ MosiUntouched s t) ?_ _ s
    ⟨⟨rfl, rfl, h⟩, .refl s, .of_same_trace rfl⟩).2.2
  rintro t - ⟨hr, hk, hm⟩
  exact ⟨hr.trans (seqStep_runs hr.position), hk.trans (seqStep_keeps t),
    hm.trans (seqStep_mosiUntouched hr.position (hr.wrf.trans hw)) hk⟩

theorem transfer_mosiUntouched (i : Instr) (rd : Bool) (n : Word) (s : State) :
    MosiUntouched s (s.transfer i rd false n) := by
  obtain ⟨-, h⟩ | ⟨st, -, -, h⟩ | ⟨-, -, h⟩ := transfer_cases i rd false n s <;> rw [h]
  · exact .of_same_trace rfl
  · exact .of_same_trace rfl
  · exact runEngine_mosiUntouched (s := s.beginTransfer i rd false n) ⟨nofun, nofun⟩ rfl

/-! ### Two transfers side by side (R83, R154) -/

/-- The two commands drive the same bytes. -/
def SamePayload (i j : Instr) : Prop := ∀ k, payloadByte (some j) k = payloadByte (some i) k

/-- The two commands answer the same bytes from the same result. -/
def SameResult (i j : Instr) : Prop := ∀ res, resultBytes (some j) res = resultBytes (some i) res

/-- The same state but for the command in progress, the byte being driven and the responses. -/
def State.differing (cmd : Option Instr) (txb : Byte) (responses : List Message) (s : State) : State :=
  { s with cmd := cmd, txb := txb, responses := responses }

/-- Without write enabled no request looks at the driven byte. -/
theorem differing_request {s : State} (hw : s.wrf = false) (cmd : Option Instr) (txb : Byte) (responses : List Message) :
    (s.differing cmd txb responses).request = s.request := by
  unfold State.request
  rw [show (s.differing cmd txb responses).seq = s.seq from rfl]
  split
  case h_13 => simp [State.differing, hw]
  all_goals rfl

/-- `s` runs the command `i` and `t` the command `j`, or both have ended: they stand at the same position and differ at
most in the command, in TXB where the payloads do, and in the result bytes answered where the commands answer other ones;
a payload that is driven is the same. -/
structure Twins (i j : Instr) (s t : State) : Prop where
  same : t = s.differing t.cmd t.txb t.responses
  running : s.seq ≠ .idle → s.cmd = some i ∧ t.cmd = some j
  txb : SamePayload i j → t.txb = s.txb
  driving : s.wrf = true → SamePayload i j
  statuses : t.responses.map (·.take 1) = s.responses.map (·.take 1)
  responses : SameResult i j → t.responses = s.responses

/-- An update that neither looks at the fields twins differ in nor writes them, nor WRF. -/
structure Commutes (f : State → State) : Prop where
  differing : ∀ s cmd txb responses, f (s.differing cmd txb responses) = (f s).differing cmd txb responses
  wrf : ∀ s, (f s).wrf = s.wrf

theorem Commutes.eq_differing {f : State → State} (hf : Commutes f) (s : State) :
    f s = (f s).differing s.cmd s.txb s.responses := hf.differing s s.cmd s.txb s.responses

theorem Commutes.cmd {f : State → State} (hf : Commutes f) (s : State) : (f s).cmd = s.cmd := by
  rw [hf.eq_differing s]
  rfl

theorem Commutes.txb {f : State → State} (hf : Commutes f) (s : State) : (f s).txb = s.txb := by
  rw [hf.eq_differing s]
  rfl

theorem Commutes.responses {f : State → State} (hf : Commutes f) (s : State) : (f s).responses = s.responses := by
  rw [hf.eq_differing s]
  rfl

section
variable {i j : Instr} {s t : State}

theorem Twins.field {α : Type} (h : Twins i j s t) (f : State → α)
    (hf : ∀ u cmd txb responses, f (State.differing cmd txb responses u) = f u) : f t = f s := by
  rw [h.same, hf]

theorem Twins.seq (h : Twins i j s t) : t.seq = s.seq := h.field State.seq fun _ _ _ _ => rfl
theorem Twins.regN (h : Twins i j s t) : t.regN = s.regN := h.field State.regN fun _ _ _ _ => rfl
theorem Twins.regK (h : Twins i j s t) : t.regK = s.regK := h.field State.regK fun _ _ _ _ => rfl
theorem Twins.regI (h : Twins i j s t) : t.regI = s.regI := h.field State.regI fun _ _ _ _ => rfl
theorem Twins.res (h : Twins i j s t) : t.res = s.res := h.field State.res fun _ _ _ _ => rfl
theorem Twins.replies (h : Twins i j s t) : t.replies = s.replies := h.field State.replies fun _ _ _ _ => rfl
theorem Twins.pace (h : Twins i j s t) : t.pace = s.pace := h.field State.pace fun _ _ _ _ => rfl
theorem Twins.trace (h : Twins i j s t) : t.trace = s.trace := h.field State.trace fun _ _ _ _ => rfl
theorem Twins.positionsLeft (h : Twins i j s t) : t.positionsLeft = s.positionsLeft :=
  h.field State.positionsLeft fun _ _ _ _ => rfl

/-- TXB counts only where a MOSI write is issued, and there it agrees. -/
theorem Twins.request (h : Twins i j s t) : t.request = s.request := by
  calc t.request = (s.differing t.cmd t.txb t.responses).request := congrArg State.request h.same
    _ = s.request := by
      rcases Bool.eq_false_or_eq_true s.wrf with hw | hw
      · rw [h.txb (h.driving hw)]
        rfl
      · exact differing_request hw _ _ _

theorem Twins.waiting (h : Twins i j s t) : t.waiting = s.waiting := by
  simp only [State.waiting, h.seq, h.request, h.replies]

theorem Twins.map {f : State → State} (h : Twins i j s t) (hi : s.seq ≠ .idle) (hf : Commutes f) :
    Twins i j (f s) (f t) where
  same := by rw [hf.cmd, hf.txb, hf.responses, ← hf.differing, ← h.same]
  running _ := by simpa only [hf.cmd] using h.running hi
  txb := by simpa only [hf.txb] using h.txb
  driving := by simpa only [hf.wrf] using h.driving
  statuses := by simpa only [hf.responses] using h.statuses
  responses := by simpa only [hf.responses] using h.responses

theorem Twins.goto (h : Twins i j s t) (hi : s.seq ≠ .idle) (pos : Seq) : Twins i j (s.goto pos) (t.goto pos) :=
  h.map hi ⟨fun _ _ _ _ => rfl, fun _ => rfl⟩

theorem Twins.sampled (h : Twins i j s t) (hi : s.seq ≠ .idle) (a : Option Level) :
    Twins i j (s.sampled a) (t.sampled a) :=
  h.map hi ⟨fun _ _ _ _ => rfl, fun _ => rfl⟩

theorem Twins.record (h : Twins i j s t) (hi : s.seq ≠ .idle) (q : GpioRequest) (r : GpioReply)
    (rest : List GpioReply) : Twins i j (s.record q r rest) (t.record q r rest) :=
  h.map hi ⟨fun _ _ _ _ => rfl, fun _ => rfl⟩

/-- Each twin fetches its own payload byte. -/
theorem Twins.startByte (h : Twins i j s t) (hi : s.seq ≠ .idle) {k k' : Word} (hk : k' = k) :
    Twins i j (s.startByte k) (t.startByte k') where
  same := by
    subst hk
    exact congrArg (fun u => { u.startByte k' with txb := payloadByte t.cmd k' }) h.same
  running _ := h.running hi
  txb hp := by
    obtain ⟨hs, ht⟩ := h.running hi
    show payloadByte t.cmd k' = payloadByte s.cmd k
    rw [hs, ht, hp, hk]
  driving := h.driving
  statuses := h.statuses
  responses := h.responses

theorem Twins.respond (h : Twins i j s t) (st : Status) {bytes bytes' : List Byte}
    (hb : SameResult i j → bytes' = bytes) : Twins i j (s.respond st bytes) (t.respond st bytes') where
  same := congrArg
    (fun u => { u.respond st bytes' with responses := t.responses ++ [st.word :: packBytes bytes'] }) h.same
  running hi := absurd rfl hi
  txb := h.txb
  driving := h.driving
  statuses := by simp [h.statuses]
  responses hr := by simp [h.responses hr, hb hr]

theorem Twins.endByte (h : Twins i j s t) (hi : s.seq ≠ .idle) : Twins i j s.endByte t.endByte := by
  have hdone : Twins i j { s with res := s.res ++ [s.rxb] } { t with res := t.res ++ [t.rxb] } :=
    h.map (f := fun u => { u with res := u.res ++ [u.rxb] }) hi
      ⟨fun _ _ _ _ => rfl, fun _ => rfl⟩
  obtain ⟨hk, e⟩ | ⟨hk, e⟩ := endByte_cases s <;> obtain ⟨hk', e'⟩ | ⟨hk', e'⟩ := endByte_cases t <;>
    rw [h.regK, h.regN] at hk'
  · rw [e, e']
    exact hdone.startByte hi (congrArg (· + 1) h.regK)
  · exact absurd hk hk'
  · exact absurd hk' hk
  · rw [e, e']
    exact hdone.goto hi .csOff

theorem Twins.accStep (h : Twins i j s t) (hi : s.seq ≠ .idle) : Twins i j s.accStep t.accStep := by
  have hacc : Twins i j { s with rxb := accumulate s.bitOrd s.rxb s.regI s.regS }
      { t with rxb := accumulate t.bitOrd t.rxb t.regI t.regS } :=
    h.map (f := fun u => { u with rxb := accumulate u.bitOrd u.rxb u.regI u.regS }) hi
      ⟨fun _ _ _ _ => rfl, fun _ => rfl⟩
  obtain ⟨hk, e⟩ | ⟨hk, e⟩ := accStep_cases s <;> obtain ⟨hk', e'⟩ | ⟨hk', e'⟩ := accStep_cases t <;>
    rw [h.regI] at hk'
  · rw [e, e']
    exact hacc.map (f := fun u => u.startBit (u.regI + 1)) hi
      ⟨fun _ _ _ _ => rfl, fun _ => rfl⟩
  · exact absurd hk hk'
  · exact absurd hk' hk
  · rw [e, e']
    exact hacc.endByte hi

theorem Twins.advance (h : Twins i j s t) (hi : s.seq ≠ .idle) (a : Option Level) :
    Twins i j (s.advance a) (t.advance a) := by
  have ht := h.seq
  cases hs : s.seq with
  | idle => exact absurd hs hi
  | opening x =>
    cases x <;> simp only [State.advance, ht, hs]
    case setOpen =>
      exact (h.map (f := State.setOpen) hi
        ⟨fun _ _ _ _ => rfl, fun _ => rfl⟩).respond .ok fun _ => rfl
    all_goals exact h.goto hi _
  | closing x =>
    cases x <;> simp only [State.advance, ht, hs]
    case clearOpen =>
      exact (h.map (f := State.clearOpen) hi
        ⟨fun _ _ _ _ => rfl, fun _ => rfl⟩).respond .ok fun _ => rfl
    all_goals exact h.goto hi _
  | csOn =>
    simp only [State.advance, ht, hs, h.regN]
    split
    · exact h.goto hi _
    · exact h.startByte hi rfl
  | bit x =>
    cases x <;> simp only [State.advance, ht, hs]
    case acc => exact h.accStep hi
    case sampleLead | sampleTrail => exact (h.sampled hi a).goto hi _
    all_goals exact h.goto hi _
  | csOff =>
    simp only [State.advance, ht, hs]
    exact h.goto hi _
  | respond =>
    obtain ⟨hcmd, hcmd'⟩ := h.running hi
    simp only [State.advance, ht, hs, hcmd, hcmd', h.res]
    exact h.respond .ok fun hr => hr _

theorem Twins.seqStep (h : Twins i j s t) (hw : s.waiting = false) : Twins i j s.seqStep t.seqStep := by
  have hi := not_idle_of_not_waiting hw
  obtain ⟨hq, e⟩ | ⟨q, hq, hr, -⟩ | ⟨q, lv, rest, hq, hr, e⟩ | ⟨q, rest, hq, hr, e⟩ := seqStep_cases s
  · rw [e, seqStep_silent (h.request.trans hq)]
    exact h.advance hi none
  · simp [State.waiting, hq, hr] at hw
  · rw [e, seqStep_done (h.request.trans hq) (h.replies.trans hr)]
    exact (h.record hi q _ rest).advance hi _
  · rw [e, seqStep_failed (h.request.trans hq) (h.replies.trans hr)]
    exact ((h.record hi q _ rest).map (f := State.setGpioFault) hi
      ⟨fun _ _ _ _ => rfl, fun _ => rfl⟩).respond _ fun _ => rfl

theorem Twins.drive (n : Nat) (h : Twins i j s t) : Twins i j (drive n s) (drive n t) := by
  induction n generalizing s t with
  | zero => exact h
  | succ n ih =>
    cases hw : s.waiting with
    | true => rwa [drive_of_waiting _ hw, drive_of_waiting _ (h.waiting.trans hw)]
    | false =>
      rw [drive_of_not_waiting _ hw, drive_of_not_waiting _ (h.waiting.trans hw)]
      exact ih (h.seqStep hw)

theorem Twins.runEngine (h : Twins i j s t) : Twins i j s.runEngine t.runEngine := by
  have hn : t.pace.getD t.positionsLeft = s.pace.getD s.positionsLeft := by rw [h.pace, h.positionsLeft]
  rw [State.runEngine, State.runEngine, hn]
  exact h.drive _

end

/-- Both transfers are refused, fail the same check, or run side by side. -/
theorem transfer_eq_or_twins {i j : Instr} {rd wr : Bool} (hp : wr = true → SamePayload i j) (n : Word) (s : State) :
    s.transfer j rd wr n = s.transfer i rd wr n ∨ Twins i j (s.transfer i rd wr n) (s.transfer j rd wr n) := by
  by_cases hc : s.configured = true
  · cases hx : s.xferCheck rd wr with
    | some st => exact .inl (by simp only [State.transfer, hc, hx])
    | none =>
      refine .inr ?_
      simp only [State.transfer, if_pos hc, hx]
      exact Twins.runEngine ⟨rfl, fun _ => ⟨rfl, rfl⟩, fun _ => rfl, hp, rfl, fun _ => rfl⟩
  · exact .inl (by simp only [State.transfer, if_neg hc])

/-- Two transfers of the same payload with the same enables leave the same state, but for the command and the responses,
whose status words agree; the responses agree too where the commands answer the same bytes. -/
theorem exec_of_same_payload {i j : Instr} {rd wr : Bool} (hi : transferEnables i = some (rd, wr))
    (hj : transferEnables j = some (rd, wr)) (hp : transferPayload j = transferPayload i) (s : State) :
    ∃ t t', exec j s = .next t ∧ exec i s = .next t' ∧ t = { t' with cmd := t.cmd, responses := t.responses } ∧
      t.responses.map (·.take 1) = t'.responses.map (·.take 1) ∧ (SameResult i j → t.responses = t'.responses) := by
  have hbytes : SamePayload i j := fun k => by rw [payloadByte_eq_getD, payloadByte_eq_getD, hp]
  have hcount : transferCount j = transferCount i := by rw [transferCount, transferCount, hp]
  refine ⟨_, _, exec_transfer hj s, exec_transfer hi s, ?_⟩
  rw [hcount]
  obtain h | h := transfer_eq_or_twins (rd := rd) (fun _ : wr = true => hbytes) (transferCount i) s
  · rw [h]
    exact ⟨rfl, rfl, fun _ => rfl⟩
  · exact ⟨h.txb hbytes ▸ h.same, h.statuses, h.responses⟩

/-- Settles O42. -/
theorem readAndWriteDelegateToXfer : Obligations.ReadAndWriteDelegateToXfer := by
  unfold Obligations.ReadAndWriteDelegateToXfer
  refine ⟨fun s count => ?read, fun s data => ?write⟩
  case read =>
    obtain ⟨t, t', ht, ht', hsame, -, hresp⟩ :=
      exec_of_same_payload (i := .xfer true false (List.replicate count.toNat 0)) (j := .read count) rfl rfl rfl s
    exact ⟨t, t', ht, ht', hresp (fun _ => rfl) ▸ hsame⟩
  case write =>
    obtain ⟨t, t', ht, ht', hsame, hstatus, -⟩ :=
      exec_of_same_payload (i := .xfer false true data) (j := .write data) rfl rfl rfl s
    exact ⟨t, t', ht, ht', hsame, hstatus⟩

/-- Without write enabled two XFERs run side by side whatever their payloads. -/
theorem xfer_of_other_payload (s : State) (rd : Bool) (data data' : List Byte) (n : Word) :
    (s.transfer (.xfer rd false data') rd false n).trace = (s.transfer (.xfer rd false data) rd false n).trace ∧
      (s.transfer (.xfer rd false data') rd false n).responses =
        (s.transfer (.xfer rd false data) rd false n).responses := by
  obtain h | h := transfer_eq_or_twins (i := .xfer rd false data) (j := .xfer rd false data') (rd := rd) (wr := false)
    nofun n s
  · rw [h]
    exact ⟨rfl, rfl⟩
  · exact ⟨h.trace, h.responses fun _ => rfl⟩

/-- Settles O41: the payload reaches neither the trace nor the response, and no request is made of the MOSI pin. -/
theorem payloadHasNoEffectWithoutWrite : Obligations.PayloadHasNoEffectWithoutWrite := by
  unfold Obligations.PayloadHasNoEffectWithoutWrite
  intro s rd data data' hlen
  obtain ⟨evs, htrace, hpins⟩ := transfer_mosiUntouched (.xfer rd false data) rd (BitVec.ofNat 32 data.length) s
  obtain ⟨htrace', hresp⟩ := xfer_of_other_payload s rd data data' (BitVec.ofNat 32 data.length)
  have hother : exec (.xfer rd false data') s =
      .next (s.transfer (.xfer rd false data') rd false (BitVec.ofNat 32 data.length)) := by
    rw [hlen]
    rfl
  refine ⟨_, _, evs, rfl, hother, htrace, htrace'.trans htrace, hresp, fun p _ hclk hmiso hcs e he hp => ?_⟩
  obtain h | h | h := hp ▸ hpins e he
  · exact hclk h
  · exact hmiso h
  · exact hcs h

end Sys2Proof.Machine

/-! SUPPORT. A transfer under an agent that holds its lines: MOSI looped back to MISO, and the levels the lines show after
the transfer (spec 20_memory R55; 42_transfer R157, R160, R161; 70_reset_and_hazards R238). -/

namespace Sys2Proof.Machine

/-! ### The bytes made of eight levels each (R160) -/

theorem foldl_or_getLsbD (f : Fin 8 → Byte) (l : List (Fin 8)) (b : Byte) (j : Nat) :
    (l.foldl (fun b i => b ||| f i) b).getLsbD j = (b.getLsbD j || l.any fun i => (f i).getLsbD j) := by
  induction l generalizing b with
  | nil => simp
  | cons i l ih => simp [ih, Bool.or_assoc]

theorem bitIndex_inj {ord : BitOrder} {i k : Fin 8} : bitIndex ord i = bitIndex ord k ↔ i = k := by
  cases ord <;> simp only [bitIndex] <;> omega

theorem exists_bitIndex (ord : BitOrder) {j : Nat} (hj : j < 8) : ∃ i, bitIndex ord i = j := by
  cases ord with
  | msb => exact ⟨⟨7 - j, by omega⟩, show 7 - (7 - j) = j by omega⟩
  | lsb => exact ⟨⟨j, hj⟩, rfl⟩

/-- The i-th level is the bit of the byte at the index of position i. -/
theorem sampledByte_getLsbD (ord : BitOrder) (levels : List Level) (i : Fin 8) :
    (sampledByte ord levels).getLsbD (bitIndex ord i) = (levels.getD i.val .low).toBit := by
  have hbit (k : Fin 8) : (if (levels.getD k.val .low).toBit then (1 : Byte) <<< bitIndex ord k else 0).getLsbD
      (bitIndex ord i) = ((levels.getD k.val .low).toBit && decide (k = i)) := by
    have hone : (1 : Byte) <<< bitIndex ord k = BitVec.twoPow 8 (bitIndex ord k) := rfl
    rw [hone]
    cases (levels.getD k.val .low).toBit <;> simp [bitIndex_lt, bitIndex_inj, eq_comm]
  rw [sampledByte, foldl_or_getLsbD]
  simp only [hbit]
  rw [Bool.eq_iff_iff]
  simp

/-- Sampling what was driven gives the byte back (R160, R161). -/
theorem sampledByte_driven (ord : BitOrder) (b : Byte) :
    sampledByte ord ((List.finRange 8).map fun i => Level.ofBit (b.getLsbD (bitIndex ord i))) = b := by
  refine BitVec.eq_of_getLsbD_eq fun j hj => ?_
  obtain ⟨i, rfl⟩ := exists_bitIndex ord hj
  rw [sampledByte_getLsbD]
  simp

theorem sampledByte_steady (ord : BitOrder) :
    sampledByte ord ((List.finRange 8).map fun _ => .high) = 0xFF ∧
      sampledByte ord ((List.finRange 8).map fun _ => .low) = 0x00 := by
  cases ord <;> decide

theorem sampledBytes_flatMap (ord : BitOrder) {levels : Byte → List Level} (h : ∀ b, (levels b).length = 8)
    (data : List Byte) :
    sampledBytes ord data.length (data.flatMap levels) = data.map fun b => sampledByte ord (levels b) := by
  induction data with
  | nil => rfl
  | cons b data ih =>
    simp only [List.length_cons, List.flatMap_cons, sampledBytes, List.map_cons]
    rw [List.take_left' (h b), List.drop_left' (h b), ih]

/-! ### The agent that loops a pin back (R161) -/

/-- The levels a loopback agent answers the reads among these requests with. -/
def loopbackAnswers (p : PinId) : Level → List GpioRequest → List Level
  | _, [] => []
  | held, .write q lv :: rest => loopbackAnswers p (if q = p then lv else held) rest
  | held, .read _ :: rest => held :: loopbackAnswers p held rest
  | held, _ :: rest => loopbackAnswers p held rest

/-- The level a loopback agent holds after these requests. -/
def loopbackHeld (p : PinId) : Level → List GpioRequest → Level
  | held, [] => held
  | held, .write q lv :: rest => loopbackHeld p (if q = p then lv else held) rest
  | held, _ :: rest => loopbackHeld p held rest

theorem loopbackTape_length (p : PinId) (held : Level) (qs : List GpioRequest) :
    (loopbackTape p held qs).length = qs.length := by
  induction qs generalizing held with
  | nil => rfl
  | cons q qs ih => cases q <;> simp [loopbackTape, ih]

theorem loopbackTape_allDone (p : PinId) (held : Level) (qs : List GpioRequest) :
    AllDone (loopbackTape p held qs) := by
  induction qs generalizing held with
  | nil => exact allDone_nil
  | cons q qs ih =>
    cases q <;> exact List.forall_mem_cons.mpr ⟨nofun, ih _⟩

theorem readAnswers_loopbackTape (p : PinId) (held : Level) (qs : List GpioRequest) :
    readAnswers (eventsOf qs (loopbackTape p held qs)) = loopbackAnswers p held qs := by
  induction qs generalizing held with
  | nil => rfl
  | cons q qs ih =>
    cases q <;> simp [loopbackTape, loopbackAnswers, readAnswers_done, GpioRequest.answerOf, ih]

theorem loopbackAnswers_append (p : PinId) (held : Level) (qs ps : List GpioRequest) :
    loopbackAnswers p held (qs ++ ps) =
      loopbackAnswers p held qs ++ loopbackAnswers p (loopbackHeld p held qs) ps := by
  induction qs generalizing held with
  | nil => rfl
  | cons q qs ih => cases q <;> simp [loopbackAnswers, loopbackHeld, ih]

/-- Groups of requests whose answers do not depend on the level held before answer group by group. -/
theorem loopbackAnswers_flatMap {α : Type} {p : PinId} {reqs : α → List GpioRequest} {answers : α → List Level}
    (h : ∀ held x, loopbackAnswers p held (reqs x) = answers x) (held : Level) (l : List α) :
    loopbackAnswers p held (l.flatMap reqs) = l.flatMap answers := by
  induction l generalizing held with
  | nil => rfl
  | cons x l ih => rw [List.flatMap_cons, loopbackAnswers_append, h, ih, List.flatMap_cons]

theorem loopbackAnswers_select (p : PinId) (held : Level) (cs : Option PinId) (lv : Level) :
    loopbackAnswers p held (cs.toList.map (GpioRequest.write · lv)) = [] := by
  cases cs <;> rfl

/-- Where every bit is answered with one level, a transfer is answered with the levels of its bits in order. -/
theorem loopbackAnswers_transfer {s : State} {p : PinId} {level : Byte → Fin 8 → Level}
    (h : ∀ held b i, loopbackAnswers p held (s.bitRequests true true b i) = [level b i]) (held : Level)
    (data : List Byte) :
    loopbackAnswers p held (s.transferRequests true true data) =
      data.flatMap fun b => (List.finRange 8).map (level b) := by
  have hbyte (held : Level) (b : Byte) :
      loopbackAnswers p held (s.byteRequests true true b) = (List.finRange 8).map (level b) := by
    rw [State.byteRequests, loopbackAnswers_flatMap fun held i => h held b i, List.map_eq_flatMap]
  rw [State.transferRequests, loopbackAnswers_append, loopbackAnswers_append, loopbackAnswers_select,
    loopbackAnswers_select, loopbackAnswers_flatMap hbyte, List.nil_append, List.append_nil]

/-- With MOSI on a pin of its own the sample of a bit is the level the bit drove (R157 step 1, R158). -/
theorem loopbackAnswers_bit {s : State} {p : PinId} (hm : s.misoPin.isSome = true) (hp : s.mosiPin = some p)
    (hc : p ≠ s.clkPin) (held : Level) (b : Byte) (i : Fin 8) :
    loopbackAnswers p held (s.bitRequests true true b i) = [Level.ofBit (b.getLsbD (bitIndex s.bitOrd i))] := by
  obtain ⟨m, hm⟩ := Option.isSome_iff_exists.mp hm
  cases hphase : s.cpha <;> simp [State.bitRequests, hm, hp, hphase, hc.symm, loopbackAnswers]

/-- With MOSI on the clock pin the sample of a bit is the clock's edge before it (R157, R158). -/
theorem loopbackAnswers_bit_of_clock {s : State} (hm : s.misoPin.isSome = true) (hp : s.mosiPin = some s.clkPin)
    (held : Level) (b : Byte) (i : Fin 8) :
    loopbackAnswers s.clkPin held (s.bitRequests true true b i) = [if s.cpha then s.idleLevel else s.trigLevel] := by
  obtain ⟨m, hm⟩ := Option.isSome_iff_exists.mp hm
  cases hphase : s.cpha <;> simp [State.bitRequests, hm, hp, hphase, loopbackAnswers]

/-- A full-duplex transfer over a loopback agent answers the bytes made of each bit's level. -/
theorem loopback_completes {s : State} {p : PinId} {level : Byte → Fin 8 → Level} {data : List Byte} {held : Level}
    {rest : List GpioReply}
    (hlevel : ∀ held b i, loopbackAnswers p held (s.bitRequests true true b i) = [level b i])
    (hw : WellFormed (.xfer true true data)) (h : TransferReady s true true) (hpace : s.pace = none)
    (hr : s.replies = loopbackTape p held (s.transferRequests true true data) ++ rest) :
    ∃ t, exec (.xfer true true data) s = .next t ∧ Ended t ∧ t.gpioFault = s.gpioFault ∧ t.replies = rest ∧
      t.responses = s.responses ++
        [0 :: packBytes (data.map fun b => sampledByte s.bitOrd ((List.finRange 8).map (level b)))] := by
  obtain ⟨t, ht, k⟩ := transfer_completes (i := .xfer true true data) rfl hw h hpace hr (loopbackTape_allDone _ _ _)
    (loopbackTape_length _ _ _)
  have hbytes : sampledBytes s.bitOrd data.length (readAnswers (eventsOf (s.transferRequests true true data)
      (loopbackTape p held (s.transferRequests true true data)))) =
      data.map fun b => sampledByte s.bitOrd ((List.finRange 8).map (level b)) := by
    rw [readAnswers_loopbackTape, loopbackAnswers_transfer hlevel, sampledBytes_flatMap]
    simp
  exact ⟨t, ht, k.ended, k.gpioFault, k.replies, hbytes ▸ k.responses⟩

/-- Settles O43. -/
theorem loopbackReturnsTheBytesDriven : Obligations.LoopbackReturnsTheBytesDriven := by
  unfold Obligations.LoopbackReturnsTheBytesDriven
  intro s p data held rest hw h hpace hp hc hr
  obtain ⟨t, ht, hended, hfault, hrest, hresp⟩ :=
    loopback_completes (loopbackAnswers_bit (h.miso rfl) hp hc) hw h hpace hr
  simp only [sampledByte_driven, List.map_id'] at hresp
  exact ⟨t, ht, hended, hfault, hrest, hresp⟩

/-- Settles O44. -/
theorem loopbackOnTheClockPinReturnsItsEdge : Obligations.LoopbackOnTheClockPinReturnsItsEdge := by
  unfold Obligations.LoopbackOnTheClockPinReturnsItsEdge
  intro s data held rest hw h hpace hp hr
  obtain ⟨t, ht, hended, hfault, hrest, hresp⟩ :=
    loopback_completes (loopbackAnswers_bit_of_clock (h.miso rfl) hp) hw h hpace hr
  obtain ⟨hhigh, hlow⟩ := sampledByte_steady s.bitOrd
  refine ⟨t, ht, hended, hfault, hrest, ?_⟩
  rw [List.map_const'] at hresp
  cases hedge : if s.cpha then s.idleLevel else s.trigLevel with
  | high => simpa only [hedge, hhigh] using hresp
  | low => simpa only [hedge, hlow] using hresp

/-! ### The lines after a transfer (R55, R238) -/

theorem lineLevel_append_write (evs : List GpioEvent) (p : PinId) (lv : Level) :
    lineLevel (evs ++ [{ req := .write p lv, result := .done }]) p = some lv := by
  simp [lineLevel, GpioEvent.lineAfter]

/-- A completed write of pin p sets p's line, where no later request names p. -/
theorem lineLevel_of_last_write (evs : List GpioEvent) {before after : List GpioRequest} {p : PinId} {lv : Level}
    {tape : List GpioReply} (hd : AllDone tape) (hl : tape.length = (before ++ .write p lv :: after).length)
    (hafter : ∀ q ∈ after, q.pin ≠ p) :
    lineLevel (evs ++ eventsOf (before ++ .write p lv :: after) tape) p = some lv := by
  obtain ⟨first, last, rfl, hfirst⟩ : ∃ first last, tape = first ++ last ∧ first.length = before.length :=
    ⟨tape.take before.length, tape.drop before.length, (List.take_append_drop _ _).symm, by
      simp only [List.length_append] at hl
      rw [List.length_take]
      omega⟩
  obtain ⟨-, hlast⟩ := List.forall_mem_append.mp hd
  cases last with
  | nil => simp [hfirst] at hl
  | cons r last =>
    obtain ⟨⟨lv', rfl⟩, -⟩ := allDone_cons hlast
    have hmore : ∀ e ∈ eventsOf after last, e.req.pin ≠ p := fun e he => hafter _ (req_mem_of_mem_eventsOf he)
    calc lineLevel (evs ++ eventsOf (before ++ .write p lv :: after) (first ++ .done lv' :: last)) p
        = lineLevel ((evs ++ eventsOf before first) ++ [{ req := .write p lv, result := .done }] ++
            eventsOf after last) p := by
          rw [eventsOf_append hfirst.symm, eventsOf_cons]
          simp [GpioRequest.event, GpioRequest.resultOf]
      _ = some lv := by rw [lineLevel_append_of_ne hmore, lineLevel_append_write]

/-- Among these requests is a last write of the clock, to IDLE, and after it only MISO and client-select are named. -/
def State.EndsAtIdle (s : State) (qs : List GpioRequest) : Prop :=
  ∃ before after, qs = before ++ .write s.clkPin s.idleLevel :: after ∧
    ∀ q ∈ after, s.misoPin = some q.pin ∨ s.csPin = some q.pin

theorem State.EndsAtIdle.prepend {s : State} {qs : List GpioRequest} (h : s.EndsAtIdle qs) (front : List GpioRequest) :
    s.EndsAtIdle (front ++ qs) := by
  obtain ⟨before, after, rfl, hafter⟩ := h
  exact ⟨front ++ before, after, by rw [List.append_assoc], hafter⟩

theorem State.EndsAtIdle.append {s : State} {qs more : List GpioRequest} (h : s.EndsAtIdle qs)
    (hmore : ∀ q ∈ more, s.misoPin = some q.pin ∨ s.csPin = some q.pin) : s.EndsAtIdle (qs ++ more) := by
  obtain ⟨before, after, rfl, hafter⟩ := h
  exact ⟨before, after ++ more, by simp, List.forall_mem_append.mpr ⟨hafter, hmore⟩⟩

theorem bitRequests_endsAtIdle (s : State) (rd wr : Bool) (b : Byte) (i : Fin 8) :
    s.EndsAtIdle (s.bitRequests rd wr b i) := by
  have hedge : s.EndsAtIdle [.write s.clkPin s.idleLevel] := ⟨[], [], rfl, nofun⟩
  refine (hedge.prepend _).append fun q hq => ?_
  obtain ⟨-, p, hp, rfl⟩ : (rd = true ∧ s.cpha = true) ∧ ∃ p, s.misoPin = some p ∧ .read p = q := by simpa using hq
  exact .inl hp

theorem byteRequests_endsAtIdle (s : State) (rd wr : Bool) (b : Byte) : s.EndsAtIdle (s.byteRequests rd wr b) := by
  have hlast : List.finRange 8 = (List.finRange 7).map Fin.castSucc ++ [Fin.last 7] := List.finRange_succ_last
  rw [State.byteRequests, hlast, List.flatMap_append, List.flatMap_singleton]
  exact (bitRequests_endsAtIdle s rd wr b _).prepend _

theorem transferRequests_endsAtIdle (s : State) (rd wr : Bool) {data : List Byte} (h : data ≠ []) :
    s.EndsAtIdle (s.transferRequests rd wr data) := by
  rw [State.transferRequests, ← List.dropLast_append_getLast h, List.flatMap_append, List.flatMap_singleton]
  refine (((byteRequests_endsAtIdle s rd wr _).prepend _).prepend _).append fun q hq => ?_
  obtain ⟨p, hp, rfl⟩ := List.mem_map.mp hq
  exact .inr (Option.mem_toList.mp hp)

/-- Without write enabled no request names the MOSI pin as such. -/
theorem nonMosiPin_of_mem_transferRequests {s : State} {rd : Bool} {data : List Byte} {q : GpioRequest}
    (h : q ∈ s.transferRequests rd false data) : s.NonMosiPin q.pin := by
  obtain ⟨b, i, hb⟩ | ⟨p, lv, hp, rfl⟩ := mem_transferRequests h
  · obtain ⟨hwr, -⟩ | ⟨lv, rfl⟩ | ⟨-, p, hp, rfl⟩ := mem_bitRequests hb
    · cases hwr
    · exact .inl rfl
    · exact .inr (.inl hp)
  · exact .inr (.inr hp)

/-- What it means that no two roles share a pin: for the clock and for MOSI. -/
theorem distinct_pins {s : State} (h : s.presentPins.Nodup) :
    s.misoPin ≠ some s.clkPin ∧ s.csPin ≠ some s.clkPin ∧ ∀ p, s.mosiPin = some p → ¬ s.NonMosiPin p := by
  simp only [State.presentPins, List.nodup_cons, List.nodup_append, List.mem_append, Option.mem_toList, not_or] at h
  obtain ⟨⟨⟨hmiso, hmosi⟩, hcs⟩, ⟨-, -, hdata⟩, -, hselect⟩ := h
  refine ⟨hmiso, hcs, fun p hp => ?_⟩
  rintro (rfl | hm | hc)
  · exact hmosi hp
  · exact hdata p hm p hp rfl
  · exact hselect p (.inr hp) p hc rfl

/-- Settles O46: of each line the last request that names it, or that there is none. -/
theorem transferLeavesClockIdleAndMosiHeld : Obligations.TransferLeavesClockIdleAndMosiHeld := by
  unfold Obligations.TransferLeavesClockIdleAndMosiHeld
  intro s i rd wr tape rest he hw hne h hpace hdistinct hr hd hl
  obtain ⟨hmiso, hcs, hmosi⟩ := distinct_pins hdistinct
  obtain ⟨t, ht, k⟩ := transfer_completes he hw h hpace hr hd hl
  refine ⟨t, ht, k.ended, ?clock, fun p hp => ?select, fun hwr p hp => ?mosi⟩ <;> rw [k.trace]
  case clock =>
    obtain ⟨before, after, hreqs, hafter⟩ := transferRequests_endsAtIdle s rd wr hne
    rw [hreqs] at hl ⊢
    refine lineLevel_of_last_write s.trace hd hl fun q hq hpin => ?_
    obtain hq | hq := hafter q hq
    · exact hmiso (hpin ▸ hq)
    · exact hcs (hpin ▸ hq)
  case select =>
    obtain ⟨before, hreqs⟩ : ∃ before,
        s.transferRequests rd wr (transferPayload i) = before ++ [.write p s.csAct.flip] :=
      ⟨_, by rw [State.transferRequests, hp]; rfl⟩
    rw [hreqs] at hl ⊢
    exact lineLevel_of_last_write s.trace hd hl nofun
  case mosi =>
    subst hwr
    refine lineLevel_append_of_ne fun e he hpin => hmosi p hp ?_
    exact hpin ▸ nonMosiPin_of_mem_transferRequests (req_mem_of_mem_eventsOf he)

end Sys2Proof.Machine

/-! SUPPORT. How a command ends: the listed status words, the refusals of an engine at rest, the failed request of a
transfer, and the one response of every command (spec 30_encoding R80, R81; 60_exceptions R200 to R209, R217). -/

namespace Sys2Proof.Machine

/-! ### The status words (R81, R200) -/

/-- Settles O13. -/
theorem statusWordsAreTheListedOnes : Obligations.StatusWordsAreTheListedOnes := by
  unfold Obligations.StatusWordsAreTheListedOnes
  decide

theorem Status.word_mem_listedStatusWords (st : Status) : st.word ∈ listedStatusWords := by
  cases st with
  | ok | notInitialized => decide
  | configurationError cause => cases cause <;> decide
  | missingPin direction => cases direction <;> decide
  | gpioError primitive => cases primitive <;> decide
  | refused cause => cases cause <;> decide

/-- Only OK may carry result bytes (R80). -/
theorem listedResponse_ok (bytes : List Byte) : ListedResponse (Status.ok.word :: packBytes bytes) :=
  ⟨_, _, rfl, Status.word_mem_listedStatusWords .ok, fun h => absurd rfl h⟩

theorem listedResponse_alone (st : Status) : ListedResponse [st.word] :=
  ⟨_, _, rfl, st.word_mem_listedStatusWords, fun _ => rfl⟩

/-! ### An engine at rest: waiting and refusing (R205, R217) -/

/-- Settles O9. -/
theorem idleEngineWaitsUnchanged : Obligations.IdleEngineWaitsUnchanged := by
  unfold Obligations.IdleEngineWaitsUnchanged
  intro s hr hi hp
  rw [step_unfetched hr (fetch_empty hp), runEngine_of_idle hi]

theorem transfer_unconfigured {s : State} (hc : s.configured = false) (i : Instr) (rd wr : Bool) (n : Word) :
    s.transfer i rd wr n = s.refuse .state := by
  simp [State.transfer, hc]

/-- In Unconfigured every command but CFG is refused (R205). -/
theorem exec_unconfigured {s : State} {i : Instr} (hc : s.configured = false) (hi : i.opcode ≠ .cfg) :
    exec i s = .next (s.refuse .state) := by
  cases i with
  | cfg => exact absurd rfl hi
  | setMode mode => exact execSetMode_unconfigured hc
  | setOrder ord => exact execSetOrder_unconfigured hc
  | openPins | closePins => exact if_neg (by simp [hc])
  | xfer | read | write => exact congrArg _ (transfer_unconfigured hc _ _ _ _)

/-- Settles O8: each of the three is a refusal of an engine at rest. -/
theorem refusedCommandsDoNothing : Obligations.RefusedCommandsDoNothing := by
  unfold Obligations.RefusedCommandsDoNothing
  refine ⟨fun s m rest e hr hi hcmd hp hd => ?undecodable, fun s i hi hcmd hc hop => ?unconfigured,
    fun s clk miso mosi cs csact ord mode hi hcmd hc => ?configured⟩
  case undecodable =>
    rw [step_undecodable hr hi hp hd]
    exact congrArg _ (refuse_at_rest (s := { s with cmdPort := rest }) hi hcmd .encoding)
  case unconfigured =>
    rw [exec_unconfigured hc hop]
    exact congrArg _ (refuse_at_rest hi hcmd .state)
  case configured => exact (execCfg_configured hc).trans (congrArg _ (refuse_at_rest hi hcmd .state))

/-! ### A transfer that fails (R206) -/

/-- Settles O34: the run ends at the failed request of the transfer's list, and a transfer keeps the rest however it
ends. -/
theorem transferStopsAtTheFailedRequest : Obligations.TransferStopsAtTheFailedRequest := by
  unfold Obligations.TransferStopsAtTheFailedRequest
  intro s i rd wr tape rest q he hw h hpace hr hd hq
  have hi := transfer_issues he hw h
  obtain ⟨hended, hopen, hfault, hrest, htrace, hresp⟩ := hi.fails hpace hr hd hq
  have k := beginTransfer_seqKeeps i rd wr (transferCount i) s
  exact ⟨_, hi.runs, htrace, hresp, hrest, hfault, k.refusedMark, hended, k.config, k.outside, k.configured, hopen⟩

/-! ### One response, when the command ends (R200, R207, R209) -/

/-- From `s` to `t` a command went on without a response, or ended with exactly one, of a listed status. -/
def RespondsAtTheEnd (s t : State) : Prop :=
  (t.seq ≠ .idle ∧ t.responses = s.responses) ∨
    (t.seq = .idle ∧ ∃ r, t.responses = s.responses ++ [r] ∧ ListedResponse r)

/-- What was answered before is all that matters of the first state. -/
theorem RespondsAtTheEnd.of_responses {s u t : State} (h : RespondsAtTheEnd u t) (hu : u.responses = s.responses) :
    RespondsAtTheEnd s t := by
  rwa [RespondsAtTheEnd, hu] at h

theorem respond_ok_respondsAtTheEnd (bytes : List Byte) (s : State) : RespondsAtTheEnd s (s.respond .ok bytes) :=
  .inr ⟨rfl, _, rfl, listedResponse_ok bytes⟩

theorem raise_respondsAtTheEnd (st : Status) (s : State) : RespondsAtTheEnd s (s.raise st) :=
  .inr ⟨rfl, _, rfl, listedResponse_alone st⟩

theorem refuse_respondsAtTheEnd (cause : RefusedCause) (s : State) : RespondsAtTheEnd s (s.refuse cause) :=
  (raise_respondsAtTheEnd (.refused cause) { s with refusedMark := true }).of_responses rfl

theorem endByte_not_idle (s : State) : s.endByte.seq ≠ .idle := by
  obtain ⟨-, h⟩ | ⟨-, h⟩ := endByte_cases s <;> rw [h] <;> nofun

theorem accStep_not_idle (s : State) : s.accStep.seq ≠ .idle := by
  obtain ⟨-, h⟩ | ⟨-, h⟩ := accStep_cases s <;> rw [h]
  · nofun
  · exact endByte_not_idle _

/-- Only OPEN.4, CLOSE.4 and XFER.RESPOND end a command, each with OK (R130, R132, R150). -/
theorem advance_respondsAtTheEnd {s : State} (hs : s.seq ≠ .idle) (a : Option Level) :
    RespondsAtTheEnd s (s.advance a) := by
  unfold State.advance
  split
  case h_1 hi => exact absurd hi hs
  case h_6 => exact (respond_ok_respondsAtTheEnd [] s.setOpen).of_responses rfl
  case h_11 => exact (respond_ok_respondsAtTheEnd [] s.clearOpen).of_responses rfl
  case h_12 => split <;> exact .inl ⟨nofun, rfl⟩
  case h_18 => exact .inl ⟨accStep_not_idle s, accStep_responses s⟩
  case h_20 => exact respond_ok_respondsAtTheEnd _ s
  all_goals exact .inl ⟨nofun, rfl⟩

/-- A failed request ends the command with GpioError (R206). -/
theorem seqStep_respondsAtTheEnd {s : State} (hs : s.seq ≠ .idle) : RespondsAtTheEnd s s.seqStep := by
  obtain ⟨-, e⟩ | ⟨q, -, -, e⟩ | ⟨q, lv, rest, -, -, e⟩ | ⟨q, rest, -, -, e⟩ := seqStep_cases s <;> rw [e]
  · exact advance_respondsAtTheEnd hs none
  · exact .inl ⟨hs, rfl⟩
  · exact (advance_respondsAtTheEnd (s := s.record q (.done lv) rest) hs _).of_responses rfl
  · exact (raise_respondsAtTheEnd (.gpioError q.primitive) (s.record q .failed rest).setGpioFault).of_responses rfl

theorem runEngine_respondsAtTheEnd {s : State} (hs : s.seq ≠ .idle) : RespondsAtTheEnd s s.runEngine := by
  refine drive_induction (P := RespondsAtTheEnd s) ?_ _ s (.inl ⟨hs, rfl⟩)
  rintro t hw (⟨hi, hresp⟩ | ⟨hi, -⟩)
  · exact (seqStep_respondsAtTheEnd hi).of_responses hresp
  · exact absurd hi (not_idle_of_not_waiting hw)

theorem execCfg_respondsAtTheEnd (clk miso mosi cs : Option PinId) (csact : Level) (ord : BitOrder) (mode : Word)
    (s : State) : ∃ t, execCfg clk miso mosi cs csact ord mode s = .next t ∧ RespondsAtTheEnd s t := by
  obtain ⟨-, h⟩ | ⟨-, -, h⟩ | ⟨p, -, -, -, h⟩ | ⟨p, m, -, -, -, h⟩ :=
    execCfg_cases clk miso mosi cs csact ord mode s
  · exact ⟨_, h, refuse_respondsAtTheEnd .state s⟩
  · exact ⟨_, h, raise_respondsAtTheEnd _ s⟩
  · exact ⟨_, h, raise_respondsAtTheEnd _ s⟩
  · exact ⟨_, h, (respond_ok_respondsAtTheEnd [] (s.configure p miso mosi cs csact m ord)).of_responses rfl⟩

theorem execSetMode_respondsAtTheEnd (mode : Word) (s : State) :
    ∃ t, execSetMode mode s = .next t ∧ RespondsAtTheEnd s t := by
  obtain ⟨-, h⟩ | ⟨-, -, h⟩ | ⟨m, -, -, h⟩ := execSetMode_cases mode s
  · exact ⟨_, h, refuse_respondsAtTheEnd .state s⟩
  · exact ⟨_, h, (raise_respondsAtTheEnd _ s.clearOpen).of_responses rfl⟩
  · exact ⟨_, h, (respond_ok_respondsAtTheEnd [] { s.clearOpen with mode := m }).of_responses rfl⟩

theorem transfer_respondsAtTheEnd (i : Instr) (rd wr : Bool) (n : Word) (s : State) :
    RespondsAtTheEnd s (s.transfer i rd wr n) := by
  obtain ⟨-, h⟩ | ⟨st, -, -, h⟩ | ⟨-, -, h⟩ := transfer_cases i rd wr n s <;> rw [h]
  · exact refuse_respondsAtTheEnd .state s
  · exact raise_respondsAtTheEnd st s
  · exact (runEngine_respondsAtTheEnd (s := s.beginTransfer i rd wr n) nofun).of_responses rfl

/-- A command other than CFG is refused in Unconfigured, so what it does when configured is left to show. -/
theorem respondsAtTheEnd_of_configured {i : Instr} {s : State} (hi : i.opcode ≠ .cfg)
    (h : s.configured = true → ∃ t, exec i s = .next t ∧ RespondsAtTheEnd s t) :
    ∃ t, exec i s = .next t ∧ RespondsAtTheEnd s t := by
  cases hc : s.configured with
  | false => exact ⟨_, exec_unconfigured hc hi, refuse_respondsAtTheEnd .state s⟩
  | true => exact h hc

/-- Every command, from every state, goes on without a response or ends with its one response. -/
theorem exec_respondsAtTheEnd (i : Instr) (s : State) : ∃ t, exec i s = .next t ∧ RespondsAtTheEnd s t := by
  cases i with
  | cfg clk miso mosi cs csact ord mode => exact execCfg_respondsAtTheEnd clk miso mosi cs csact ord mode s
  | setMode mode => exact execSetMode_respondsAtTheEnd mode s
  | setOrder ord =>
    exact respondsAtTheEnd_of_configured nofun fun hc => ⟨_, execSetOrder_configured hc,
      (respond_ok_respondsAtTheEnd [] { s.clearOpen with bitOrd := ord }).of_responses rfl⟩
  | openPins =>
    exact respondsAtTheEnd_of_configured nofun fun hc => ⟨_, (open_issues hc).runs,
      (runEngine_respondsAtTheEnd (s := s.begin .openPins (.opening .clock)) nofun).of_responses rfl⟩
  | closePins =>
    exact respondsAtTheEnd_of_configured nofun fun hc => ⟨_, (close_issues hc).runs,
      (runEngine_respondsAtTheEnd (s := s.begin .closePins (.closing .first)) nofun).of_responses rfl⟩
  | xfer rd wr data => exact ⟨_, rfl, transfer_respondsAtTheEnd _ rd wr _ s⟩
  | read count => exact ⟨_, rfl, transfer_respondsAtTheEnd _ true false _ s⟩
  | write data => exact ⟨_, rfl, transfer_respondsAtTheEnd _ false true _ s⟩

/-- Settles O53: the step refuses the offered message, runs its command, or lets the command in progress go on. -/
theorem oneListedResponsePerCommand : Obligations.OneListedResponsePerCommand := by
  unfold Obligations.OneListedResponsePerCommand
  intro s hr hbusy
  obtain ⟨hr', -⟩ | ⟨-, hw, h⟩ | ⟨m, rest, e, -, -, -, -, h⟩ | ⟨m, rest, i, -, -, -, -, h⟩ := step_cases s
  case inl => exact absurd (hr.symm.trans hr') (by decide)
  case inr.inl =>
    have hi : s.seq ≠ .idle := hbusy.elim id fun hp => hw.resolve_right hp
    exact ⟨_, h, runEngine_respondsAtTheEnd hi⟩
  case inr.inr.inl => exact ⟨_, h, (refuse_respondsAtTheEnd .encoding { s with cmdPort := rest }).of_responses rfl⟩
  case inr.inr.inr =>
    obtain ⟨t, ht, k⟩ := exec_respondsAtTheEnd i { s with cmdPort := rest }
    exact ⟨t, h.trans ht, k.of_responses rfl⟩

end Sys2Proof.Machine

/-! SUPPORT. The reset event, and what one command means for the next: none is accepted while one runs, and a setter makes
every transfer wait for a reopen (spec 70_reset_and_hazards R230, R232, R236). -/

namespace Sys2Proof.Machine

/-! ### The reset event (R230) -/

/-- ENGSTAT is read off the flags and SEQ, which a reset event gives the values of the reset state (R35, R41). -/
theorem applyReset_engstat (s : State) : s.applyReset.engstat = 0x00000000 := by
  obtain ⟨-, hstat, -⟩ := resetStateIsUnconfiguredAndIdle s.params
  exact hstat

/-- Settles O12. -/
theorem resetEventAbandonsTheCommand : Obligations.ResetEventAbandonsTheCommand :=
  fun s hr => ⟨_, step_reset hr, rfl, applyReset_engstat s, rfl, rfl, rfl, rfl, rfl⟩

/-! ### A message offered to a busy engine (R236) -/

/-- Settles O10: a busy engine fetches nothing, and what it runs meanwhile leaves the command port alone. -/
theorem busyEngineAcceptsNoMessage : Obligations.BusyEngineAcceptsNoMessage :=
  fun s hr hi => ⟨_, step_unfetched hr (fetch_busy hi), (runEngine_sameOutside s).cmdPort⟩

/-! ### A transfer after a setter (R232) -/

/-- On a configured engine SETMODE and SETORDER clear ISOPEN and end at once, whatever they write and answer. -/
theorem exec_setter_closes {s : State} {i : Instr} (hc : s.configured = true)
    (hi : i.opcode = .setMode ∨ i.opcode = .setOrder) :
    ∃ mode ord st, exec i s = .next ({ s.clearOpen with mode := mode, bitOrd := ord }.respond st []) := by
  cases i with
  | setMode mode =>
    obtain ⟨hc', -⟩ | ⟨-, -, h⟩ | ⟨m, -, -, h⟩ := execSetMode_cases mode s
    · exact absurd (hc.symm.trans hc') (by decide)
    · exact ⟨s.mode, s.bitOrd, .configurationError .mode, h⟩
    · exact ⟨m, s.bitOrd, .ok, h⟩
  | setOrder ord => exact ⟨s.mode, ord, .ok, execSetOrder_configured hc⟩
  | cfg | openPins | closePins | xfer | read | write => simp [Instr.opcode] at hi

/-- Settles O22: the setter leaves a configured engine at rest and not Open, where a transfer fails its first check. -/
theorem settersForceAReopen : Obligations.SettersForceAReopen := by
  unfold Obligations.SettersForceAReopen
  intro s i j hc hi hj
  obtain ⟨⟨rd, wr⟩, he⟩ := Option.isSome_iff_exists.mp hj
  obtain ⟨mode, ord, st, h⟩ := exec_setter_closes hc hi
  obtain ⟨hclosed, -, -⟩ := transferPreconditionsInOrder
    ({ s.clearOpen with mode := mode, bitOrd := ord }.respond st []) j rd wr he hc rfl rfl
  exact ⟨_, h, rfl, rfl, hclosed rfl⟩

end Sys2Proof.Machine
